-- ==== Sys2Proof/Word.lean ====
section
/-!
DEFINITION. The machine's word types (00_scope.md R7, R8). Bit 0 is the least significant bit; `+`, `-`, `*` of
two words are modulo 2^32.
-/

namespace Sys2Proof

/-- A 32-bit register value, operand, result or address (R8). -/
abbrev Word := BitVec 32

/-- An 8-bit byte of memory (R61). -/
abbrev Byte := BitVec 8

/-- A general register's number, 0 to 15 (R30). -/
abbrev Reg := Fin 16

end Sys2Proof
end

