-- ==== Sys2Proof/Config.lean ====
section
/-!
DEFINITION. The parameters of the model (00_scope.md R6) as plain data, their values for this hardware, and the free
values. The record is carried in the state, unchanged by every step (log entry 1).
-/

namespace Sys2Proof

/-- `REG_LAYOUT`: where the Rd and Rn fields of data-processing and load/store words lie (R92). -/
inductive RegLayout where
  | doc  -- Rd = bits 19:16, Rn = bits 15:12
  | arm  -- Rn = bits 19:16, Rd = bits 15:12
  deriving DecidableEq, Repr

/-- `PC_READ`: what reading R15 as a data operand does (R34). -/
inductive PcRead where
  | unsupported
  | plus8
  deriving DecidableEq, Repr

/-- `MULS_CV`: C and V after a multiply with S = 1 (R333). -/
inductive MulsCv where
  | draw
  | unchanged
  deriving DecidableEq, Repr

/-- `CODE_MEM`: where instruction words come from (R70). -/
inductive CodeMem where
  | unified
  | separate
  deriving DecidableEq, Repr

/-- The two widths of the memory interface (R60). -/
inductive Width where
  | byte
  | word
  deriving DecidableEq, Repr

/-- The kinds of access `MEM_ADMIT` is asked about (R65). -/
inductive AccessKind where
  | fetch
  | load
  | store
  deriving DecidableEq, Repr

/-- A range of addresses, both ends included, at which the memory refuses accesses of one width and one kind. -/
structure DenyRange where
  first : Word
  last  : Word
  width : Width
  kind  : AccessKind
  deriving DecidableEq, Repr

/-- The parameters of R6. `memDeny` lists the accesses for which `MEM_ADMIT` is false: the accesses are finitely many,
so every total predicate is some list (log entry 6). `prog` is `PROG`, by address (log entry 7). -/
structure Config where
  regLayout   : RegLayout
  pcRead      : PcRead
  admitRsbRsc : Bool
  mulsCv      : MulsCv
  codeMem     : CodeMem
  memDeny     : List DenyRange
  prog        : List (Word × Word)
  deriving DecidableEq, Repr

/-- The value of each parameter for this hardware (R6). The two OPEN ones among them, `MEM_ADMIT` and `PROG`, are
DESIGN CHOICEs: nothing refused, no separate image (log entries 6 and 7). -/
def Config.hardware : Config :=
  { regLayout := .doc, pcRead := .unsupported, admitRsbRsc := false, mulsCv := .draw, codeMem := .unified,
    memDeny := [], prog := [] }

/-- What a byte of memory that no cell lists reads as. DESIGN CHOICE: the spec leaves `INIT_MEM` open (R50). Log
entry 5, unsafe. -/
def Config.unlistedByte : Byte := 0#8

/-- The bits a multiply with S = 1 draws for C and V under `MULS_CV = DRAW` (R333: "unconstrained"). It has no body,
so nothing is known of any of its values. Log entry 9. -/
opaque Config.freeBit : Nat → Bool

end Sys2Proof
end

