-- ==== Sys2Proof/Syntax.lean ====
section
/-!
DEFINITION. The instructions (30_encoding.md R114, opcode_table.json). One constructor per mnemonic of the table; the
three operand-2 forms of a data-processing row are the constructors of `Operand2`, the two offset forms of a load or
store those of `Offset`. Should-be-zero fields are no part of an instruction (R112).
-/

namespace Sys2Proof

/-- The fifteen conditions that are evaluated (R96). 1111 is none of them (R110). -/
inductive Cond where
  | eq | ne | cs | cc | mi | pl | vs | vc | hi | ls | ge | lt | gt | le | al
  deriving DecidableEq, Repr

/-- Shift types (R95). RRX is `ror` with an immediate amount of 0. -/
inductive ShiftType where
  | lsl | lsr | asr | ror
  deriving DecidableEq, Repr

/-- Operand-2 of a data-processing instruction (R93, R94, R114). -/
inductive Operand2 where
  /-- An 8-bit constant rotated right by twice `rot`. -/
  | imm (rot : BitVec 4) (imm8 : BitVec 8)
  /-- Rm shifted by the 5-bit amount field. -/
  | shImm (rm : Reg) (ty : ShiftType) (amt : BitVec 5)
  /-- Rm shifted by the low byte of Rs. -/
  | shReg (rm : Reg) (ty : ShiftType) (rs : Reg)
  deriving DecidableEq, Repr

/-- The offset of a load or store (R102, R114). -/
inductive Offset where
  | imm (imm12 : BitVec 12)
  | reg (rm : Reg) (ty : ShiftType) (amt : BitVec 5)
  deriving DecidableEq, Repr

/-- The amount operand of a standalone shift mnemonic (R260 to R267): the written number `n`, or a register. -/
inductive ShiftAmount where
  | imm (n : Nat)
  | reg (rs : Reg)
  deriving DecidableEq, Repr

/-- An instruction. `c` is its condition, `sf` its S bit; `p`, `u`, `w` are the P, U and W bits of R101. The shift
mnemonics `lsl` to `rrx` are spellings of `mov` (43_shift_aliases.md): the decoder gives `mov` for their words. -/
inductive Instr where
  | and  (c : Cond) (sf : Bool) (rd rn : Reg) (op2 : Operand2)
  | eor  (c : Cond) (sf : Bool) (rd rn : Reg) (op2 : Operand2)
  | sub  (c : Cond) (sf : Bool) (rd rn : Reg) (op2 : Operand2)
  | rsb  (c : Cond) (sf : Bool) (rd rn : Reg) (op2 : Operand2)
  | add  (c : Cond) (sf : Bool) (rd rn : Reg) (op2 : Operand2)
  | adc  (c : Cond) (sf : Bool) (rd rn : Reg) (op2 : Operand2)
  | sbc  (c : Cond) (sf : Bool) (rd rn : Reg) (op2 : Operand2)
  | rsc  (c : Cond) (sf : Bool) (rd rn : Reg) (op2 : Operand2)
  | tst  (c : Cond) (rn : Reg) (op2 : Operand2)
  | teq  (c : Cond) (rn : Reg) (op2 : Operand2)
  | cmp  (c : Cond) (rn : Reg) (op2 : Operand2)
  | cmn  (c : Cond) (rn : Reg) (op2 : Operand2)
  | orr  (c : Cond) (sf : Bool) (rd rn : Reg) (op2 : Operand2)
  | mov  (c : Cond) (sf : Bool) (rd : Reg) (op2 : Operand2)
  | bic  (c : Cond) (sf : Bool) (rd rn : Reg) (op2 : Operand2)
  | mvn  (c : Cond) (sf : Bool) (rd : Reg) (op2 : Operand2)
  | lsl  (c : Cond) (sf : Bool) (rd rm : Reg) (amt : ShiftAmount)
  | lsr  (c : Cond) (sf : Bool) (rd rm : Reg) (amt : ShiftAmount)
  | asr  (c : Cond) (sf : Bool) (rd rm : Reg) (amt : ShiftAmount)
  | ror  (c : Cond) (sf : Bool) (rd rm : Reg) (amt : ShiftAmount)
  | rrx  (c : Cond) (sf : Bool) (rd rm : Reg)
  | b    (c : Cond) (imm24 : BitVec 24)
  | bl   (c : Cond) (imm24 : BitVec 24)
  | ldr  (c : Cond) (p u w : Bool) (rd rn : Reg) (off : Offset)
  | str  (c : Cond) (p u w : Bool) (rd rn : Reg) (off : Offset)
  | ldrb (c : Cond) (p u w : Bool) (rd rn : Reg) (off : Offset)
  | strb (c : Cond) (p u w : Bool) (rd rn : Reg) (off : Offset)
  | mul  (c : Cond) (sf : Bool) (rd rs rm : Reg)
  | mla  (c : Cond) (sf : Bool) (rd rn rs rm : Reg)
  | swi  (c : Cond) (imm24 : BitVec 24)
  deriving DecidableEq, Repr

/-- The condition an instruction carries. -/
def Instr.cond : Instr → Cond
  | .and c _ _ _ _ => c
  | .eor c _ _ _ _ => c
  | .sub c _ _ _ _ => c
  | .rsb c _ _ _ _ => c
  | .add c _ _ _ _ => c
  | .adc c _ _ _ _ => c
  | .sbc c _ _ _ _ => c
  | .rsc c _ _ _ _ => c
  | .tst c _ _ => c
  | .teq c _ _ => c
  | .cmp c _ _ => c
  | .cmn c _ _ => c
  | .orr c _ _ _ _ => c
  | .mov c _ _ _ => c
  | .bic c _ _ _ _ => c
  | .mvn c _ _ _ => c
  | .lsl c _ _ _ _ => c
  | .lsr c _ _ _ _ => c
  | .asr c _ _ _ _ => c
  | .ror c _ _ _ _ => c
  | .rrx c _ _ _ => c
  | .b c _ => c
  | .bl c _ => c
  | .ldr c _ _ _ _ _ _ => c
  | .str c _ _ _ _ _ _ => c
  | .ldrb c _ _ _ _ _ _ => c
  | .strb c _ _ _ _ _ _ => c
  | .mul c _ _ _ _ => c
  | .mla c _ _ _ _ _ => c
  | .swi c _ => c

end Sys2Proof
end

