-- ==== Sys2Proof/WellFormed.lean ====
section
/-!
DEFINITION. Which instructions are well formed under a configuration. The field types already bound every encoded
field; what is left is the admission of RSB and RSC (30_encoding.md R108) and the range of the written amount of a
shift mnemonic (43_shift_aliases.md R260, R262, R264, R266).
-/

namespace Sys2Proof

/-- The written amount of a shift mnemonic lies in `lo .. hi`; a register amount has no limit. -/
def ShiftAmount.inRange (lo hi : Nat) : ShiftAmount → Bool
  | .imm n => decide (lo ≤ n) && decide (n ≤ hi)
  | .reg _ => true

/-- `i` is an instruction the spec gives under `cfg`. -/
def Instr.wf (cfg : Config) : Instr → Bool
  | .and _ _ _ _ _ => true
  | .eor _ _ _ _ _ => true
  | .sub _ _ _ _ _ => true
  | .rsb _ _ _ _ _ => cfg.admitRsbRsc
  | .add _ _ _ _ _ => true
  | .adc _ _ _ _ _ => true
  | .sbc _ _ _ _ _ => true
  | .rsc _ _ _ _ _ => cfg.admitRsbRsc
  | .tst _ _ _ => true
  | .teq _ _ _ => true
  | .cmp _ _ _ => true
  | .cmn _ _ _ => true
  | .orr _ _ _ _ _ => true
  | .mov _ _ _ _ => true
  | .bic _ _ _ _ _ => true
  | .mvn _ _ _ _ => true
  | .lsl _ _ _ _ amt => amt.inRange 0 31
  | .lsr _ _ _ _ amt => amt.inRange 1 32
  | .asr _ _ _ _ amt => amt.inRange 1 32
  | .ror _ _ _ _ amt => amt.inRange 1 31
  | .rrx _ _ _ _ => true
  | .b _ _ => true
  | .bl _ _ => true
  | .ldr _ _ _ _ _ _ _ => true
  | .str _ _ _ _ _ _ _ => true
  | .ldrb _ _ _ _ _ _ _ => true
  | .strb _ _ _ _ _ _ _ => true
  | .mul _ _ _ _ _ => true
  | .mla _ _ _ _ _ _ => true
  | .swi _ _ => true

end Sys2Proof
end

