-- ==== Sys2Proof/Decode.lean ====
section
/-!
DEFINITION. The Field Decoder and its classification (30_encoding.md R91 to R112), total on every word, and after it
the encoder of R99 to R104.
-/

namespace Sys2Proof

/-- The reasons of a DecodeFault, a closed enumeration (R109). -/
inductive DecodeReason where
  | condNV | coprocessor | blockTransfer | undefinedSpace | reservedBit7Bit4 | compareWithoutS | rsbRscNotAdmitted
  deriving DecidableEq, Repr

/-- Bit `i` of a word (R7). -/
def bitOf (w : Word) (i : Nat) : Bool := w.getLsbD i

/-- The field of `len` bits whose lowest bit is `lo` (R7). -/
def fieldOf (w : Word) (lo len : Nat) : BitVec len := w.extractLsb' lo len

/-- A register number from its 4-bit field (R30). -/
def regOfBits (b : BitVec 4) : Reg := b.toFin

/-- The 4-bit field of a register number. -/
def regBits (r : Reg) : BitVec 4 := BitVec.ofFin r

/-- The condition table (R96); 1111 has no condition (R110). -/
def condOfBits (b : BitVec 4) : Option Cond :=
  match b.toNat with
  | 0 => some .eq
  | 1 => some .ne
  | 2 => some .cs
  | 3 => some .cc
  | 4 => some .mi
  | 5 => some .pl
  | 6 => some .vs
  | 7 => some .vc
  | 8 => some .hi
  | 9 => some .ls
  | 10 => some .ge
  | 11 => some .lt
  | 12 => some .gt
  | 13 => some .le
  | 14 => some .al
  | _ => none

/-- The 4-bit code of a condition (R96). -/
def condBits : Cond → BitVec 4
  | .eq => 0b0000#4
  | .ne => 0b0001#4
  | .cs => 0b0010#4
  | .cc => 0b0011#4
  | .mi => 0b0100#4
  | .pl => 0b0101#4
  | .vs => 0b0110#4
  | .vc => 0b0111#4
  | .hi => 0b1000#4
  | .ls => 0b1001#4
  | .ge => 0b1010#4
  | .lt => 0b1011#4
  | .gt => 0b1100#4
  | .le => 0b1101#4
  | .al => 0b1110#4

/-- Shift types (R95). -/
def shiftOfBits (b : BitVec 2) : ShiftType :=
  match b.toNat with
  | 0 => .lsl
  | 1 => .lsr
  | 2 => .asr
  | _ => .ror

/-- The 2-bit code of a shift type (R95). -/
def shiftBits : ShiftType → BitVec 2
  | .lsl => 0b00#2
  | .lsr => 0b01#2
  | .asr => 0b10#2
  | .ror => 0b11#2

/-- Operand-2 of a data-processing word (R93, R94). -/
def decodeOperand2 (w : Word) : Operand2 :=
  if bitOf w 25 then .imm (fieldOf w 8 4) (fieldOf w 0 8)
  else if bitOf w 4 then .shReg (regOfBits (fieldOf w 0 4)) (shiftOfBits (fieldOf w 5 2)) (regOfBits (fieldOf w 8 4))
  else .shImm (regOfBits (fieldOf w 0 4)) (shiftOfBits (fieldOf w 5 2)) (fieldOf w 7 5)

/-- The offset of a load or store word (R102): bit 25 = 0 selects the immediate. -/
def decodeOffset (w : Word) : Offset :=
  if bitOf w 25 then .reg (regOfBits (fieldOf w 0 4)) (shiftOfBits (fieldOf w 5 2)) (fieldOf w 7 5)
  else .imm (fieldOf w 0 12)

/-- Rd of a data-processing or load/store word (R92). -/
def decodeRd (lay : RegLayout) (w : Word) : Reg :=
  match lay with
  | .doc => regOfBits (fieldOf w 16 4)
  | .arm => regOfBits (fieldOf w 12 4)

/-- Rn of a data-processing or load/store word (R92). -/
def decodeRn (lay : RegLayout) (w : Word) : Reg :=
  match lay with
  | .doc => regOfBits (fieldOf w 12 4)
  | .arm => regOfBits (fieldOf w 16 4)

/-- A data-processing word by its opcode, bits 24:21 (R98, R99), with the refusals of R106 and R108. Should-be-zero
fields are dropped (R112). -/
def decodeDataProcessing (cfg : Config) (c : Cond) (w : Word) : Except DecodeReason Instr :=
  let sf := bitOf w 20
  let rd := decodeRd cfg.regLayout w
  let rn := decodeRn cfg.regLayout w
  let op2 := decodeOperand2 w
  match (fieldOf w 21 4).toNat with
  | 0 => .ok (.and c sf rd rn op2)
  | 1 => .ok (.eor c sf rd rn op2)
  | 2 => .ok (.sub c sf rd rn op2)
  | 3 => if cfg.admitRsbRsc then .ok (.rsb c sf rd rn op2) else .error .rsbRscNotAdmitted
  | 4 => .ok (.add c sf rd rn op2)
  | 5 => .ok (.adc c sf rd rn op2)
  | 6 => .ok (.sbc c sf rd rn op2)
  | 7 => if cfg.admitRsbRsc then .ok (.rsc c sf rd rn op2) else .error .rsbRscNotAdmitted
  | 8 => if sf then .ok (.tst c rn op2) else .error .compareWithoutS
  | 9 => if sf then .ok (.teq c rn op2) else .error .compareWithoutS
  | 10 => if sf then .ok (.cmp c rn op2) else .error .compareWithoutS
  | 11 => if sf then .ok (.cmn c rn op2) else .error .compareWithoutS
  | 12 => .ok (.orr c sf rd rn op2)
  | 13 => .ok (.mov c sf rd op2)
  | 14 => .ok (.bic c sf rd rn op2)
  | _ => .ok (.mvn c sf rd op2)

/-- A single data transfer word by its L and B bits (R101). -/
def decodeLoadStore (cfg : Config) (c : Cond) (w : Word) : Instr :=
  let p := bitOf w 24
  let u := bitOf w 23
  let wb := bitOf w 21
  let rd := decodeRd cfg.regLayout w
  let rn := decodeRn cfg.regLayout w
  let off := decodeOffset w
  if bitOf w 20 then
    if bitOf w 22 then .ldrb c p u wb rd rn off else .ldr c p u wb rd rn off
  else
    if bitOf w 22 then .strb c p u wb rd rn off else .str c p u wb rd rn off

/-- A multiply word by its A bit (R103); the register positions do not depend on the layout. -/
def decodeMultiply (c : Cond) (w : Word) : Instr :=
  if bitOf w 21 then
    .mla c (bitOf w 20) (regOfBits (fieldOf w 16 4)) (regOfBits (fieldOf w 12 4)) (regOfBits (fieldOf w 8 4))
      (regOfBits (fieldOf w 0 4))
  else
    .mul c (bitOf w 20) (regOfBits (fieldOf w 16 4)) (regOfBits (fieldOf w 8 4)) (regOfBits (fieldOf w 0 4))

/-- The classes, tested in the order of R97; the first that matches wins. -/
def decodeClass (cfg : Config) (c : Cond) (w : Word) : Except DecodeReason Instr :=
  if fieldOf w 24 4 = 0b1111#4 then .ok (.swi c (fieldOf w 0 24))
  else if fieldOf w 24 4 = 0b1110#4 ∨ fieldOf w 25 3 = 0b110#3 then .error .coprocessor
  else if fieldOf w 25 3 = 0b101#3 then
    if bitOf w 24 then .ok (.bl c (fieldOf w 0 24)) else .ok (.b c (fieldOf w 0 24))
  else if fieldOf w 25 3 = 0b100#3 then .error .blockTransfer
  else if fieldOf w 25 3 = 0b011#3 ∧ bitOf w 4 = true then .error .undefinedSpace
  else if fieldOf w 26 2 = 0b01#2 then .ok (decodeLoadStore cfg c w)
  else if bitOf w 25 = false ∧ bitOf w 7 = true ∧ bitOf w 4 = true then
    if fieldOf w 22 3 = 0b000#3 ∧ fieldOf w 4 4 = 0b1001#4 then .ok (decodeMultiply c w)
    else .error .reservedBit7Bit4
  else decodeDataProcessing cfg c w

/-- Decode (R115): every word is one instruction or one DecodeFault reason. -/
def decodeWord (cfg : Config) (w : Word) : Except DecodeReason Instr :=
  match condOfBits (fieldOf w 28 4) with
  | none => .error .condNV
  | some c => decodeClass cfg c w

/-- A word from its four bytes, the first at the lowest address (little-endian, R62, R70). -/
def wordOfBytes (b0 b1 b2 b3 : Byte) : Word := b3 ++ b2 ++ b1 ++ b0

/-- Byte `k` of a word, `k` in 0..3 (R63). -/
def byteOfWord (w : Word) (k : Nat) : Byte := w.extractLsb' (8 * k) 8

/-- What reading an instruction from a list of bytes gives. -/
inductive ByteDecode where
  /-- An instruction, and the bytes after its four (R90). -/
  | instr (i : Instr) (rest : List Byte)
  /-- Four bytes that are no admitted word, by reason. -/
  | rejected (r : DecodeReason) (rest : List Byte)
  /-- Fewer than the four bytes of a word. -/
  | tooShort
  deriving DecidableEq, Repr

/-- Decode the first instruction of a list of bytes; it always takes four (R90). -/
def decodeBytes (cfg : Config) : List Byte → ByteDecode
  | b0 :: b1 :: b2 :: b3 :: rest =>
    match decodeWord cfg (wordOfBytes b0 b1 b2 b3) with
    | .ok i => .instr i rest
    | .error r => .rejected r rest
  | _ => .tooShort

/-- The word of the table's numbering: the low `nbits` bits of `w`, every bit above them 0. -/
def tableWord (nbits w : Nat) : Word := BitVec.ofNat 32 (w % 2 ^ nbits)

/-- The four bytes of a word as memory stores them, lowest address first (R63). -/
def bytesOfWord (w : Word) : List Byte := [byteOfWord w 0, byteOfWord w 1, byteOfWord w 2, byteOfWord w 3]

/-- The instruction this decoder reads, under the parameter values of this hardware (R6), from the bits `w`. -/
def decodeTableWord (nbits w : Nat) : Option Instr :=
  match decodeBytes Config.hardware (bytesOfWord (tableWord nbits w)) with
  | .instr i _ => some i
  | .rejected _ _ => none
  | .tooShort => none

/-! The encoder, from the same tables. Should-be-zero fields are written as 0 (R112). -/

/-- A flag as one bit. -/
def flagBit (b : Bool) : BitVec 1 := BitVec.ofBool b

/-- Bit 25 and bits 11:0 of a data-processing word (R93, R94). -/
def operand2Bits : Operand2 → BitVec 1 × BitVec 12
  | .imm rot imm8 => (1#1, rot ++ imm8)
  | .shImm rm ty amt => (0#1, amt ++ shiftBits ty ++ 0#1 ++ regBits rm)
  | .shReg rm ty rs => (0#1, regBits rs ++ 0#1 ++ shiftBits ty ++ 1#1 ++ regBits rm)

/-- Bit 25 and bits 11:0 of a load or store word (R102). -/
def offsetBits : Offset → BitVec 1 × BitVec 12
  | .imm imm12 => (0#1, imm12)
  | .reg rm ty amt => (1#1, amt ++ shiftBits ty ++ 0#1 ++ regBits rm)

/-- Bits 19:12 from Rd and Rn (R92). -/
def rdRnBits (lay : RegLayout) (rd rn : BitVec 4) : BitVec 8 :=
  match lay with
  | .doc => rd ++ rn
  | .arm => rn ++ rd

/-- The data-processing format (R99). -/
def encodeDataProcessing (lay : RegLayout) (c : Cond) (opcode : BitVec 4) (sf : Bool) (rd rn : BitVec 4)
    (op2 : Operand2) : Word :=
  condBits c ++ 0b00#2 ++ (operand2Bits op2).1 ++ opcode ++ flagBit sf ++ rdRnBits lay rd rn ++ (operand2Bits op2).2

/-- The single data transfer format (R101). -/
def encodeLoadStore (lay : RegLayout) (c : Cond) (p u b w l : Bool) (rd rn : Reg) (off : Offset) : Word :=
  condBits c ++ 0b01#2 ++ (offsetBits off).1 ++ flagBit p ++ flagBit u ++ flagBit b ++ flagBit w ++ flagBit l
    ++ rdRnBits lay (regBits rd) (regBits rn) ++ (offsetBits off).2

/-- The branch format (R100). -/
def encodeBranch (c : Cond) (link : Bool) (imm24 : BitVec 24) : Word :=
  condBits c ++ 0b101#3 ++ flagBit link ++ imm24

/-- The multiply format (R103). -/
def encodeMultiply (c : Cond) (acc sf : Bool) (rd rn rs rm : BitVec 4) : Word :=
  condBits c ++ 0b000000#6 ++ flagBit acc ++ flagBit sf ++ rd ++ rn ++ rs ++ 0b1001#4 ++ rm

/-- The SWI format (R104). -/
def encodeSwi (c : Cond) (imm24 : BitVec 24) : Word := condBits c ++ 0b1111#4 ++ imm24

/-- The operand-2 a shift mnemonic stands for (R118, R260 to R267): the amount field holds n mod 32. -/
def shiftOperand2 (ty : ShiftType) (rm : Reg) : ShiftAmount → Operand2
  | .imm n => .shImm rm ty (BitVec.ofNat 5 n)
  | .reg rs => .shReg rm ty rs

/-- The core instruction a spelling stands for (R118): a shift mnemonic is a MOV, every other instruction itself. -/
def canonicalInstr : Instr → Instr
  | .lsl c sf rd rm amt => .mov c sf rd (shiftOperand2 .lsl rm amt)
  | .lsr c sf rd rm amt => .mov c sf rd (shiftOperand2 .lsr rm amt)
  | .asr c sf rd rm amt => .mov c sf rd (shiftOperand2 .asr rm amt)
  | .ror c sf rd rm amt => .mov c sf rd (shiftOperand2 .ror rm amt)
  | .rrx c sf rd rm => .mov c sf rd (.shImm rm .ror 0#5)
  | .and c sf rd rn op2 => .and c sf rd rn op2
  | .eor c sf rd rn op2 => .eor c sf rd rn op2
  | .sub c sf rd rn op2 => .sub c sf rd rn op2
  | .rsb c sf rd rn op2 => .rsb c sf rd rn op2
  | .add c sf rd rn op2 => .add c sf rd rn op2
  | .adc c sf rd rn op2 => .adc c sf rd rn op2
  | .sbc c sf rd rn op2 => .sbc c sf rd rn op2
  | .rsc c sf rd rn op2 => .rsc c sf rd rn op2
  | .tst c rn op2 => .tst c rn op2
  | .teq c rn op2 => .teq c rn op2
  | .cmp c rn op2 => .cmp c rn op2
  | .cmn c rn op2 => .cmn c rn op2
  | .orr c sf rd rn op2 => .orr c sf rd rn op2
  | .mov c sf rd op2 => .mov c sf rd op2
  | .bic c sf rd rn op2 => .bic c sf rd rn op2
  | .mvn c sf rd op2 => .mvn c sf rd op2
  | .b c imm24 => .b c imm24
  | .bl c imm24 => .bl c imm24
  | .ldr c p u w rd rn off => .ldr c p u w rd rn off
  | .str c p u w rd rn off => .str c p u w rd rn off
  | .ldrb c p u w rd rn off => .ldrb c p u w rd rn off
  | .strb c p u w rd rn off => .strb c p u w rd rn off
  | .mul c sf rd rs rm => .mul c sf rd rs rm
  | .mla c sf rd rn rs rm => .mla c sf rd rn rs rm
  | .swi c imm24 => .swi c imm24

/-- The word of an instruction under a register layout (R98 to R104). -/
def encode (cfg : Config) : Instr → Word
  | .and c sf rd rn op2 => encodeDataProcessing cfg.regLayout c 0b0000#4 sf (regBits rd) (regBits rn) op2
  | .eor c sf rd rn op2 => encodeDataProcessing cfg.regLayout c 0b0001#4 sf (regBits rd) (regBits rn) op2
  | .sub c sf rd rn op2 => encodeDataProcessing cfg.regLayout c 0b0010#4 sf (regBits rd) (regBits rn) op2
  | .rsb c sf rd rn op2 => encodeDataProcessing cfg.regLayout c 0b0011#4 sf (regBits rd) (regBits rn) op2
  | .add c sf rd rn op2 => encodeDataProcessing cfg.regLayout c 0b0100#4 sf (regBits rd) (regBits rn) op2
  | .adc c sf rd rn op2 => encodeDataProcessing cfg.regLayout c 0b0101#4 sf (regBits rd) (regBits rn) op2
  | .sbc c sf rd rn op2 => encodeDataProcessing cfg.regLayout c 0b0110#4 sf (regBits rd) (regBits rn) op2
  | .rsc c sf rd rn op2 => encodeDataProcessing cfg.regLayout c 0b0111#4 sf (regBits rd) (regBits rn) op2
  | .tst c rn op2 => encodeDataProcessing cfg.regLayout c 0b1000#4 true 0#4 (regBits rn) op2
  | .teq c rn op2 => encodeDataProcessing cfg.regLayout c 0b1001#4 true 0#4 (regBits rn) op2
  | .cmp c rn op2 => encodeDataProcessing cfg.regLayout c 0b1010#4 true 0#4 (regBits rn) op2
  | .cmn c rn op2 => encodeDataProcessing cfg.regLayout c 0b1011#4 true 0#4 (regBits rn) op2
  | .orr c sf rd rn op2 => encodeDataProcessing cfg.regLayout c 0b1100#4 sf (regBits rd) (regBits rn) op2
  | .mov c sf rd op2 => encodeDataProcessing cfg.regLayout c 0b1101#4 sf (regBits rd) 0#4 op2
  | .bic c sf rd rn op2 => encodeDataProcessing cfg.regLayout c 0b1110#4 sf (regBits rd) (regBits rn) op2
  | .mvn c sf rd op2 => encodeDataProcessing cfg.regLayout c 0b1111#4 sf (regBits rd) 0#4 op2
  | .lsl c sf rd rm amt => encodeDataProcessing cfg.regLayout c 0b1101#4 sf (regBits rd) 0#4 (shiftOperand2 .lsl rm amt)
  | .lsr c sf rd rm amt => encodeDataProcessing cfg.regLayout c 0b1101#4 sf (regBits rd) 0#4 (shiftOperand2 .lsr rm amt)
  | .asr c sf rd rm amt => encodeDataProcessing cfg.regLayout c 0b1101#4 sf (regBits rd) 0#4 (shiftOperand2 .asr rm amt)
  | .ror c sf rd rm amt => encodeDataProcessing cfg.regLayout c 0b1101#4 sf (regBits rd) 0#4 (shiftOperand2 .ror rm amt)
  | .rrx c sf rd rm => encodeDataProcessing cfg.regLayout c 0b1101#4 sf (regBits rd) 0#4 (.shImm rm .ror 0#5)
  | .b c imm24 => encodeBranch c false imm24
  | .bl c imm24 => encodeBranch c true imm24
  | .ldr c p u w rd rn off => encodeLoadStore cfg.regLayout c p u false w true rd rn off
  | .str c p u w rd rn off => encodeLoadStore cfg.regLayout c p u false w false rd rn off
  | .ldrb c p u w rd rn off => encodeLoadStore cfg.regLayout c p u true w true rd rn off
  | .strb c p u w rd rn off => encodeLoadStore cfg.regLayout c p u true w false rd rn off
  | .mul c sf rd rs rm => encodeMultiply c false sf (regBits rd) 0#4 (regBits rs) (regBits rm)
  | .mla c sf rd rn rs rm => encodeMultiply c true sf (regBits rd) (regBits rn) (regBits rs) (regBits rm)
  | .swi c imm24 => encodeSwi c imm24

end Sys2Proof
end

