-- ==== Sys2Proof/Machine/State.lean ====
section
/-!
DEFINITION. The machine's state as plain data (10_state.md), the reasons a step can stop, and the state a run starts
from (10_state.md R50, 70_reset_and_hazards.md R400).
-/

namespace Sys2Proof.Machine

/-- The status register (R39): the four flags, and bits 27:0, which no instruction reads or writes. -/
structure Cpsr where
  /-- bit 31, negative -/
  n : Bool
  /-- bit 30, zero -/
  z : Bool
  /-- bit 29, carry -/
  c : Bool
  /-- bit 28, overflow -/
  v : Bool
  /-- bits 27:0 (log entry 8) -/
  low : BitVec 28
  deriving DecidableEq, Repr

/-- Memory: the cells that differ from `Config.unlistedByte`, by address. -/
abbrev Memory := List Host.Cell

/-- The canonical form of a memory above an address bound: addresses strictly rising, all of them in the 2^32-byte
space (R61), no cell equal to what an unlisted address reads as. -/
def Memory.wfFrom (lo : Nat) : Memory → Bool
  | [] => true
  | (a, b) :: rest => decide (lo ≤ a) && decide (a < 2 ^ 32) && decide (b ≠ Config.unlistedByte) && wfFrom (a + 1) rest

/-- The canonical form of a memory. -/
def Memory.wf (m : Memory) : Bool := Memory.wfFrom 0 m

/-- The committed snapshot, and with it the parameters of the step and the outcome tag. -/
structure State where
  /-- R0 to R15 (R30); R15 is the program counter (R35) -/
  regs : Vector Word 16
  /-- the status register (R39) -/
  cpsr : Cpsr
  /-- the byte memory behind the memory interface (R61) -/
  mem : Memory
  /-- the tag of the last step's outcome (R153): `some code` after `Trap(code, state)`, `none` after `Next(state)`.
  The model's own field, log entry 11. -/
  trap : Option Word
  /-- how many free bits were drawn so far (R156). The model's own field, log entry 10. -/
  draws : Nat
  /-- the parameters of R6, which no step changes. Log entry 1. -/
  cfg : Config
  deriving DecidableEq, Repr

/-- The reasons of an UnsupportedEncoding, a closed enumeration (R111). -/
inductive UnsupportedReason where
  | pcOperand | pcInRegisterShift | pcWriteWithS | pcWriteMisaligned | indexingMode | pcLoadStore | pcInMultiply
  deriving DecidableEq, Repr

/-- The reasons of a MemoryFault (R363). -/
inductive MemoryReason where
  | misaligned | rejected
  deriving DecidableEq, Repr

/-- What a handler or the fetch raises (R141). ExecuteOne completes it to a `Fault`. -/
inductive Raise where
  | unsupported (r : UnsupportedReason)
  | memory (r : MemoryReason) (addr : Word)
  deriving DecidableEq, Repr

/-- `Fault(kind, reason, word, pc, addr)` of R151 and R364. A fault commits nothing: the state it was raised in stays
the committed one. `word` is the fetched word, none for a fetch fault; `exec` alone has no word to name and leaves it
none, ExecuteOne fills it in (log entry 14). -/
inductive Fault where
  /-- Raised by ExecuteOne for a word with cond 1111, or one the decoder does not admit and whose condition passes
  (R361). Safe: the spec names it. -/
  | decodeFault (r : DecodeReason) (word : Option Word) (pc : Word)
  /-- Raised by a handler for a variant the core does not implement (R362). Safe: the spec names it. -/
  | unsupportedEncoding (r : UnsupportedReason) (word : Option Word) (pc : Word)
  /-- Raised by the instruction fetch, LDR, LDRB, STR or STRB (R363). Safe: the spec names it. -/
  | memoryFault (r : MemoryReason) (word : Option Word) (pc addr : Word)
  deriving DecidableEq, Repr

/-- The reasons a step is refused. -/
inductive Refusal where
  /-- An instruction of the table without a meaning. Raised by no arm of this model: every instruction has its
  meaning. Safe. -/
  | notModelled (mnemonic : String)
  deriving DecidableEq, Repr

/-- What a run is launched with (R50, R400, R402). -/
structure Launch where
  /-- `ENTRY_PC`, word aligned -/
  entryPc : Word
  /-- `INIT_REGS`: R0 to R14 -/
  initRegs : Vector Word 15
  /-- `INIT_FLAGS` -/
  n : Bool
  z : Bool
  c : Bool
  v : Bool
  /-- `INIT_MEM` -/
  initMem : Memory
  /-- the parameters of the step -/
  cfg : Config
  deriving DecidableEq, Repr

/-- The launch state (R50). -/
def State.launch (l : Launch) : State :=
  { regs := l.initRegs.push l.entryPc
    cpsr := { n := l.n, z := l.z, c := l.c, v := l.v, low := 0#28 }
    mem := l.initMem
    trap := none
    draws := 0
    cfg := l.cfg }

/-- The machine right after reset: the core has no reset (R400), so this is the launch with the values of log entries
2 to 7: every register 0, the pc 0, the flags 0, nothing in memory, this hardware's parameters. DESIGN CHOICE, unsafe. -/
def State.reset : State :=
  { regs := Vector.replicate 16 0#32
    cpsr := { n := false, z := false, c := false, v := false, low := 0#28 }
    mem := []
    trap := none
    draws := 0
    cfg := Config.hardware }

end Sys2Proof.Machine
end

