-- ==== Sys2Proof/Machine/Ops.lean ====
section
/-!
DEFINITION. The named operations over registers, memory, the program counter and the outcome of a step. A handler
reads the state it is given (the current snapshot) and builds the next one (10_state.md R46).
-/

namespace Sys2Proof.Machine

/-! Registers and the program counter -/

/-- `x[r]` of the current snapshot (R10). -/
def State.x (s : State) (r : Reg) : Word := s.regs.get r

/-- `x[r] <- v` in the next snapshot (R10). No register is hard-wired (R31). -/
def State.setX (s : State) (r : Reg) (v : Word) : State := { s with regs := s.regs.set r v }

/-- The program counter, x[15] (R35). -/
def State.pc (s : State) : Word := s.x 15

/-- `pc <- t` (R10). -/
def State.setPc (s : State) (t : Word) : State := s.setX 15 t

/-- The advance of the PC by one instruction, modulo 2^32 (R36, R37). -/
def State.advance (s : State) : State := s.setPc (s.pc + 4#32)

/-- `ReadReg(r)`: the value an instruction reads when register `r` is a data operand (R34). -/
def readReg (s : State) (r : Reg) : Except Raise Word :=
  if r ≠ 15 then .ok (s.x r)
  else match s.cfg.pcRead with
    | .plus8 => .ok (s.x 15 + 8#32)
    | .unsupported => .error (.unsupported .pcOperand)

/-- The status register as the 32-bit word of R39. -/
def Cpsr.toWord (p : Cpsr) : Word := BitVec.ofBool p.n ++ BitVec.ofBool p.z ++ BitVec.ofBool p.c ++ BitVec.ofBool p.v ++ p.low

/-! Memory (20_memory.md) -/

/-- The byte a memory holds at an address of the space (R61). -/
def readCell : Memory → Nat → Byte
  | [], _ => Config.unlistedByte
  | (k, v) :: rest, a => if k = a then v else readCell rest a

/-- The memory with one byte replaced, in canonical form. -/
def writeCell : Memory → Nat → Byte → Memory
  | [], a, b => if b = Config.unlistedByte then [] else [(a, b)]
  | (k, v) :: rest, a, b =>
    if a < k then
      if b = Config.unlistedByte then (k, v) :: rest else (a, b) :: (k, v) :: rest
    else if a = k then
      if b = Config.unlistedByte then rest else (a, b) :: rest
    else (k, v) :: writeCell rest a b

/-- `MEM[a]`. -/
def State.byteAt (s : State) (a : Word) : Byte := readCell s.mem a.toNat

/-- `MEM[a] <- b`. -/
def State.setByte (s : State) (a : Word) (b : Byte) : State := { s with mem := writeCell s.mem a.toNat b }

/-- The word at `a`, little-endian (R62). -/
def State.wordAt (s : State) (a : Word) : Word :=
  wordOfBytes (s.byteAt a) (s.byteAt (a + 1#32)) (s.byteAt (a + 2#32)) (s.byteAt (a + 3#32))

/-- The four byte writes of a word, little-endian (R63). -/
def State.setWord (s : State) (a v : Word) : State :=
  (((s.setByte a (byteOfWord v 0)).setByte (a + 1#32) (byteOfWord v 1)).setByte (a + 2#32) (byteOfWord v 2)).setByte
    (a + 3#32) (byteOfWord v 3)

/-- Bits 1:0 of an address are 00 (R66). -/
def wordAligned (a : Word) : Bool := a.extractLsb' 0 2 == 0#2

/-- The access `(a, width, kind)` lies in a refused range. -/
def denies (d : DenyRange) (a : Word) (width : Width) (kind : AccessKind) : Bool :=
  decide (d.width = width) && decide (d.kind = kind) && decide (d.first ≤ a) && decide (a ≤ d.last)

/-- `MEM_ADMIT(a, width, kind)` (R65). -/
def memAdmit (cfg : Config) (a : Word) (width : Width) (kind : AccessKind) : Bool :=
  !(cfg.memDeny.any fun d => denies d a width kind)

/-- `check(a, width, kind)`: alignment of a word access, then admission (R65, R66). -/
def checkAccess (cfg : Config) (a : Word) (width : Width) (kind : AccessKind) : Except Raise Unit :=
  if width = .word ∧ wordAligned a = false then .error (.memory .misaligned a)
  else if memAdmit cfg a width kind = false then .error (.memory .rejected a)
  else .ok ()

/-- `MemRead(a, 4)` (R62). -/
def loadWord (s : State) (a : Word) : Except Raise Word :=
  match checkAccess s.cfg a .word .load with
  | .error r => .error r
  | .ok _ => .ok (s.wordAt a)

/-- `MemRead(a, 1)` (R64). -/
def loadByte (s : State) (a : Word) : Except Raise Byte :=
  match checkAccess s.cfg a .byte .load with
  | .error r => .error r
  | .ok _ => .ok (s.byteAt a)

/-- `MemWrite(a, 4, v)` (R63). -/
def storeWord (s : State) (a v : Word) : Except Raise State :=
  match checkAccess s.cfg a .word .store with
  | .error r => .error r
  | .ok _ => .ok (s.setWord a v)

/-- `MemWrite(a, 1, v)` (R64). -/
def storeByte (s : State) (a : Word) (b : Byte) : Except Raise State :=
  match checkAccess s.cfg a .byte .store with
  | .error r => .error r
  | .ok _ => .ok (s.setByte a b)

/-- `PROG(a)`: the separate program image, which may answer "absent" (R70). -/
def progAt : List (Word × Word) → Word → Option Word
  | [], _ => none
  | (k, w) :: rest, a => if k = a then some w else progAt rest a

/-- `Fetch(a)` at the program counter (R70). -/
def fetch (s : State) : Except Raise Word :=
  match s.cfg.codeMem with
  | .unified =>
    match checkAccess s.cfg s.pc .word .fetch with
    | .error r => .error r
    | .ok _ => .ok (s.wordAt s.pc)
  | .separate =>
    if wordAligned s.pc = false then .error (.memory .misaligned s.pc)
    else match progAt s.cfg.prog s.pc with
      | some w => .ok w
      | none => .error (.memory .rejected s.pc)

/-- The state with a word placed where `fetch` reads its next one: data memory, or the program image under
`CODE_MEM = SEPARATE` (R402). -/
def placeWord (s : State) (w : Word) : State :=
  match s.cfg.codeMem with
  | .unified => s.setWord s.pc w
  | .separate => { s with cfg := { s.cfg with prog := (s.pc, w) :: s.cfg.prog } }

/-! Exceptions. The core's one exception is the software trap; it has no vector, no saved status and no mode (R366). -/

/-- Taking the software trap (R350, R366): the next snapshot is committed with only the PC advanced, and the outcome
is `Trap(code, next)`. -/
def State.takeTrap (s : State) (code : Word) : State := { s.advance with trap := some code }

/-- The start of a step. There is no return-from-trap instruction; the shell resumes by stepping again from the
committed state (R351, R367), and the tag of the outcome before does not outlive it. -/
def State.beginStep (s : State) : State := { s with trap := none }

/-! Outcomes -/

/-- A raise as the fault it becomes (R151): with the PC of the instruction, and the word where there is one. -/
def Raise.toFault (word : Option Word) (pc : Word) : Raise → Fault
  | .unsupported r => .unsupportedEncoding r word pc
  | .memory r addr => .memoryFault r word pc addr

/-- A fault with the offending word in place (R151). -/
def Fault.withWord (w : Word) : Fault → Fault
  | .decodeFault r _ pc => .decodeFault r (some w) pc
  | .unsupportedEncoding r _ pc => .unsupportedEncoding r (some w) pc
  | .memoryFault r _ pc addr => .memoryFault r (some w) pc addr

/-- An outcome whose fault, if it is one, names the offending word (R151). -/
def nameWord (w : Word) : Host.Outcome State Fault Refusal → Host.Outcome State Fault Refusal
  | .next s => .next s
  | .fault f => .fault (f.withWord w)
  | .refused r => .refused r

/-- The number of a fault (R365). -/
def faultCode : Fault → Nat
  | .decodeFault .condNV _ _ => 1
  | .decodeFault .coprocessor _ _ => 2
  | .decodeFault .blockTransfer _ _ => 3
  | .decodeFault .undefinedSpace _ _ => 4
  | .decodeFault .reservedBit7Bit4 _ _ => 5
  | .decodeFault .compareWithoutS _ _ => 6
  | .decodeFault .rsbRscNotAdmitted _ _ => 7
  | .unsupportedEncoding .pcOperand _ _ => 16
  | .unsupportedEncoding .pcInRegisterShift _ _ => 17
  | .unsupportedEncoding .pcWriteWithS _ _ => 18
  | .unsupportedEncoding .pcWriteMisaligned _ _ => 19
  | .unsupportedEncoding .indexingMode _ _ => 20
  | .unsupportedEncoding .pcLoadStore _ _ => 21
  | .unsupportedEncoding .pcInMultiply _ _ => 22
  | .memoryFault .misaligned _ _ _ => 32
  | .memoryFault .rejected _ _ _ => 33

end Sys2Proof.Machine
end

