-- ==== Sys2Proof/Machine/Flags.lean ====
section
/-!
DEFINITION. The Condition Evaluator (40_execution_cycle.md R142), the adder (42_data_processing.md R213) and the Flag
Updater (40_execution_cycle.md R146, R147; 46_multiply.md R333).
-/

namespace Sys2Proof.Machine

/-- `ConditionPassed` on the current flags (R96, R142). -/
def conditionPassed (c : Cond) (p : Cpsr) : Bool :=
  match c with
  | .eq => p.z
  | .ne => !p.z
  | .cs => p.c
  | .cc => !p.c
  | .mi => p.n
  | .pl => !p.n
  | .vs => p.v
  | .vc => !p.v
  | .hi => p.c && !p.z
  | .ls => !p.c || p.z
  | .ge => p.n == p.v
  | .lt => p.n != p.v
  | .gt => !p.z && (p.n == p.v)
  | .le => p.z || (p.n != p.v)
  | .al => true

/-- A handler's outcome: its next state, or the fault its raise becomes, with nothing committed (R150, R151). -/
def settle (s : State) : Except Raise State → Host.Outcome State Fault Refusal
  | .ok t => .next t
  | .error r => .fault (r.toFault none s.pc)

/-- Condition gating of a handler (R142, R143): with a failing condition only the PC advances. -/
def whenPassed (c : Cond) (s : State) (handler : Except Raise State) : Host.Outcome State Fault Refusal :=
  if conditionPassed c s.cpsr = true then settle s handler else .next s.advance

/-- What an operation computes: its result and the C and V it would write. -/
structure AluOut where
  result : Word
  carry : Bool
  overflow : Bool
  deriving DecidableEq, Repr

/-- `AddWithCarry(x, y, cin)` (R213). -/
def addWithCarry (x y : Word) (cin : Bool) : AluOut :=
  let u := x.toNat + y.toNat + cin.toNat
  let result := BitVec.ofNat 32 u
  { result := result
    carry := decide (2 ^ 32 ≤ u)
    overflow := x.msb == y.msb && result.msb != x.msb }

/-- A logical or move result: C is the shifter's carry-out, V the current V (R147). -/
def logicalOut (s : State) (result : Word) (shiftCarry : Bool) : AluOut :=
  { result := result, carry := shiftCarry, overflow := s.cpsr.v }

/-- `SetFlags(result, c, v)`: the four flags in one write (R146). -/
def State.setFlags (s : State) (result : Word) (c v : Bool) : State :=
  { s with cpsr := { s.cpsr with n := result.msb, z := result == 0#32, c := c, v := v } }

/-- The flags a multiply with S = 1 writes (R333): N and Z from the result; C and V are two drawn bits under
`MULS_CV = DRAW`, kept under `UNCHANGED`. -/
def State.setMultiplyFlags (s : State) (result : Word) : State :=
  match s.cfg.mulsCv with
  | .draw =>
    { s.setFlags result (Config.freeBit s.draws) (Config.freeBit (s.draws + 1)) with draws := s.draws + 2 }
  | .unchanged => s.setFlags result s.cpsr.c s.cpsr.v

end Sys2Proof.Machine
end

