-- ==== Sys2Proof/Machine/Operands.lean ====
section
/-!
DEFINITION. The barrel shifter and operand-2 (41_barrel_shifter.md), the offset and effective address of a load or
store (45_load_store.md R300 to R303), and the shared body of every data-processing instruction
(42_data_processing.md R211, R214).
-/

namespace Sys2Proof.Machine

/-! Shifts (R9) -/

/-- `LSL(v, k)`. -/
def lslBy (v : Word) (k : Nat) : Word := v <<< k

/-- `LSR(v, k)`. -/
def lsrBy (v : Word) (k : Nat) : Word := v >>> k

/-- `ASR(v, k)`: one sign-filling shift (R193). -/
def asrBy (v : Word) (k : Nat) : Word := v.sshiftRight k

/-- `ROR(v, k)`, k in 0..31. -/
def rorBy (v : Word) (k : Nat) : Word := lsrBy v k ||| lslBy v (32 - k)

/-- `Replicate(v[31], 32)`. -/
def signFill (v : Word) : Word := if v.msb then 0xFFFFFFFF#32 else 0x00000000#32

/-- A value and a carry-out (the source's Operand2Value, R180). -/
structure Shifted where
  value : Word
  carry : Bool
  deriving DecidableEq, Repr

/-- The immediate operand (R181). -/
def immOperand (rot : BitVec 4) (imm8 : BitVec 8) (c : Bool) : Shifted :=
  let value := rorBy (imm8.zeroExtend 32) (2 * rot.toNat)
  { value := value, carry := if rot.toNat = 0 then c else value.msb }

/-- A shift by the amount field, 0 to 31 (R182 to R185). -/
def shiftImm (ty : ShiftType) (v : Word) (amt : Nat) (c : Bool) : Shifted :=
  match ty with
  | .lsl => if amt = 0 then ⟨v, c⟩ else ⟨lslBy v amt, v.getLsbD (32 - amt)⟩
  | .lsr => if amt = 0 then ⟨0#32, v.msb⟩ else ⟨lsrBy v amt, v.getLsbD (amt - 1)⟩
  | .asr => if amt = 0 then ⟨signFill v, v.msb⟩ else ⟨asrBy v amt, v.getLsbD (amt - 1)⟩
  | .ror =>
    if amt = 0 then ⟨BitVec.ofBool c ++ v.extractLsb' 1 31, v.getLsbD 0⟩
    else ⟨rorBy v amt, v.getLsbD (amt - 1)⟩

/-- A shift by a register's low byte, 0 to 255 (R186 to R190). -/
def shiftReg (ty : ShiftType) (v : Word) (n : Nat) (c : Bool) : Shifted :=
  match ty with
  | .lsl =>
    if n = 0 then ⟨v, c⟩
    else if n ≤ 31 then ⟨lslBy v n, v.getLsbD (32 - n)⟩
    else if n = 32 then ⟨0#32, v.getLsbD 0⟩
    else ⟨0#32, false⟩
  | .lsr =>
    if n = 0 then ⟨v, c⟩
    else if n ≤ 31 then ⟨lsrBy v n, v.getLsbD (n - 1)⟩
    else if n = 32 then ⟨0#32, v.msb⟩
    else ⟨0#32, false⟩
  | .asr =>
    if n = 0 then ⟨v, c⟩
    else if n ≤ 31 then ⟨asrBy v n, v.getLsbD (n - 1)⟩
    else ⟨signFill v, v.msb⟩
  | .ror =>
    if n = 0 then ⟨v, c⟩
    else if n % 32 = 0 then ⟨v, v.msb⟩
    else ⟨rorBy v (n % 32), v.getLsbD (n % 32 - 1)⟩

/-! Operand-2 (R180) -/

/-- R15 in a register-shift form (R191), whatever `PC_READ` is: as Rm or Rs, as the Rn of an instruction that reads
Rn, or as the Rd of one that writes Rd. `rd` and `rn` are none where the instruction has no such operand. -/
def checkRegisterShift (rd rn : Option Reg) : Operand2 → Except Raise Unit
  | .imm _ _ => .ok ()
  | .shImm _ _ _ => .ok ()
  | .shReg rm _ rs =>
    if rm = 15 ∨ rs = 15 ∨ rd = some 15 ∨ rn = some 15 then .error (.unsupported .pcInRegisterShift) else .ok ()

/-- `Operand2(op2)` on the current snapshot (R180), the check of R191 apart. -/
def operand2 (s : State) : Operand2 → Except Raise Shifted
  | .imm rot imm8 => .ok (immOperand rot imm8 s.cpsr.c)
  | .shImm rm ty amt =>
    match readReg s rm with
    | .error r => .error r
    | .ok v => .ok (shiftImm ty v amt.toNat s.cpsr.c)
  | .shReg rm ty rs => .ok (shiftReg ty (s.x rm) ((s.x rs).extractLsb' 0 8).toNat s.cpsr.c)

/-! Data processing (R210 to R214) -/

/-- `WriteRd(Rd, result, S)` (R211) on the next snapshot of `s`, the PC included: a write of R15 is a jump, any other
advances the PC (R36). -/
def writeRd (s : State) (rd : Reg) (result : Word) (sf : Bool) : Except Raise State :=
  if rd ≠ 15 then .ok (s.advance.setX rd result)
  else if sf = true then .error (.unsupported .pcWriteWithS)
  else if wordAligned result = false then .error (.unsupported .pcWriteMisaligned)
  else .ok (s.setPc result)

/-- The first operand (R212); an instruction that reads no Rn has 0 there (R214). -/
def readRn (s : State) : Option Reg → Except Raise Word
  | some rn => readReg s rn
  | none => .ok 0#32

/-- The write of the result, or for a comparison (no Rd) the bare advance (R214). -/
def writeResult (s : State) (rd : Option Reg) (result : Word) (sf : Bool) : Except Raise State :=
  match rd with
  | some r => writeRd s r result sf
  | none => .ok s.advance

/-- `ExecDP` (R214), its raises in the order given there. `rd` is none for a comparison, `rn` none for a move;
`compute a b shiftCarry` is the instruction's own rule. -/
def dataProcessing (s : State) (sf : Bool) (rd rn : Option Reg) (op2 : Operand2)
    (compute : Word → Word → Bool → AluOut) : Except Raise State :=
  match checkRegisterShift rd rn op2 with
  | .error r => .error r
  | .ok _ =>
    match operand2 s op2 with
    | .error r => .error r
    | .ok b =>
      match readRn s rn with
      | .error r => .error r
      | .ok a =>
        let out := compute a b.value b.carry
        match writeResult s rd out.result sf with
        | .error r => .error r
        | .ok t => if sf = true ∨ rd = none then .ok (t.setFlags out.result out.carry out.overflow) else .ok t

/-! Loads and stores (R300 to R303) -/

/-- `LSOffset()` (R300); the shifter's carry is discarded. -/
def loadStoreOffset (s : State) : Offset → Word
  | .imm imm12 => imm12.zeroExtend 32
  | .reg rm ty amt => (shiftImm ty (s.x rm) amt.toNat s.cpsr.c).value

/-- `EA()` from the base value (R300), modulo 2^32. -/
def effectiveAddress (s : State) (u : Bool) (base : Word) (off : Offset) : Word :=
  if u = true then base + loadStoreOffset s off else base - loadStoreOffset s off

/-- Rm is R15 in the register-offset form (R302). -/
def offsetNamesPc : Offset → Bool
  | .imm _ => false
  | .reg rm _ _ => decide (rm = 15)

/-- The address of a load or store, after the checks of R303 steps 1 to 3. -/
def loadStoreAddress (s : State) (p u w : Bool) (rd rn : Reg) (off : Offset) : Except Raise Word :=
  if p = false ∨ w = true then .error (.unsupported .indexingMode)
  else if rd = 15 ∨ offsetNamesPc off = true then .error (.unsupported .pcLoadStore)
  else match readReg s rn with
    | .error r => .error r
    | .ok base => .ok (effectiveAddress s u base off)

/-- A load: address, access, then the write of Rd and the advance (R310, R312). -/
def loadInto (s : State) (p u w : Bool) (rd rn : Reg) (off : Offset) (access : Word → Except Raise Word) :
    Except Raise State :=
  match loadStoreAddress s p u w rd rn off with
  | .error r => .error r
  | .ok a =>
    match access a with
    | .error r => .error r
    | .ok v => .ok (s.advance.setX rd v)

/-- A store: address, then the access as the last action, and the advance (R311, R313, R152). -/
def storeFrom (s : State) (p u w : Bool) (rd rn : Reg) (off : Offset) (access : Word → Except Raise State) :
    Except Raise State :=
  match loadStoreAddress s p u w rd rn off with
  | .error r => .error r
  | .ok a =>
    match access a with
    | .error r => .error r
    | .ok t => .ok t.advance

/-! Multiply (R330 to R333) -/

/-- The shared body of MUL and MLA: `result` is already reduced modulo 2^32. -/
def multiplyInto (s : State) (sf : Bool) (rd : Reg) (result : Word) : State :=
  let t := s.advance.setX rd result
  if sf = true then t.setMultiplyFlags result else t

/-! Branches (R280 to R283) -/

/-- `x[15] + 8 + (sext_32(imm24) << 2)`: sign extension before scaling (R283). -/
def branchTarget (s : State) (imm24 : BitVec 24) : Word := s.pc + 8#32 + (imm24.signExtend 32 <<< 2)

end Sys2Proof.Machine
end

