-- ==== Sys2Proof/Machine/Arithmetic.lean ====
section
/-!
DEFINITION. The arithmetic instructions (42_data_processing.md, section 3). The shifter's carry is discarded (R192).
-/

namespace Sys2Proof.Machine

/-- SUB (R222). -/
def execSub (c : Cond) (sf : Bool) (rd rn : Reg) (op2 : Operand2) (s : State) : Host.Outcome State Fault Refusal :=
  whenPassed c s (dataProcessing s sf (some rd) (some rn) op2 fun a b _ => addWithCarry a (~~~b) true)

/-- RSB (R223). Whether its words are admitted is the decoder's matter (R108, log entry 18). -/
def execRsb (c : Cond) (sf : Bool) (rd rn : Reg) (op2 : Operand2) (s : State) : Host.Outcome State Fault Refusal :=
  whenPassed c s (dataProcessing s sf (some rd) (some rn) op2 fun a b _ => addWithCarry b (~~~a) true)

/-- ADD (R224). -/
def execAdd (c : Cond) (sf : Bool) (rd rn : Reg) (op2 : Operand2) (s : State) : Host.Outcome State Fault Refusal :=
  whenPassed c s (dataProcessing s sf (some rd) (some rn) op2 fun a b _ => addWithCarry a b false)

/-- ADC (R225): the carry-in is the current C. -/
def execAdc (c : Cond) (sf : Bool) (rd rn : Reg) (op2 : Operand2) (s : State) : Host.Outcome State Fault Refusal :=
  whenPassed c s (dataProcessing s sf (some rd) (some rn) op2 fun a b _ => addWithCarry a b s.cpsr.c)

/-- SBC (R226). -/
def execSbc (c : Cond) (sf : Bool) (rd rn : Reg) (op2 : Operand2) (s : State) : Host.Outcome State Fault Refusal :=
  whenPassed c s (dataProcessing s sf (some rd) (some rn) op2 fun a b _ => addWithCarry a (~~~b) s.cpsr.c)

/-- RSC (R227). Whether its words are admitted is the decoder's matter (R108, log entry 18). -/
def execRsc (c : Cond) (sf : Bool) (rd rn : Reg) (op2 : Operand2) (s : State) : Host.Outcome State Fault Refusal :=
  whenPassed c s (dataProcessing s sf (some rd) (some rn) op2 fun a b _ => addWithCarry b (~~~a) s.cpsr.c)

end Sys2Proof.Machine
end

