-- ==== Sys2Proof/Machine/Branch.lean ====
section
/-! DEFINITION. The branches (44_branch.md). -/

namespace Sys2Proof.Machine

/-- B (R280). -/
def execB (c : Cond) (imm24 : BitVec 24) (s : State) : Host.Outcome State Fault Refusal :=
  whenPassed c s (.ok (s.setPc (branchTarget s imm24)))

/-- BL (R281): R14 receives the address of the next instruction; the target is computed from the BL's own PC. -/
def execBl (c : Cond) (imm24 : BitVec 24) (s : State) : Host.Outcome State Fault Refusal :=
  whenPassed c s (.ok ((s.setX 14 (s.pc + 4#32)).setPc (branchTarget s imm24)))

end Sys2Proof.Machine
end

