-- ==== Sys2Proof/Machine/Compare.lean ====
section
/-!
DEFINITION. The comparisons (42_data_processing.md, section 4): the computation of AND, EOR, SUB, ADD, no register
written, the flags always.
-/

namespace Sys2Proof.Machine

/-- TST (R228). -/
def execTst (c : Cond) (rn : Reg) (op2 : Operand2) (s : State) : Host.Outcome State Fault Refusal :=
  whenPassed c s (dataProcessing s true none (some rn) op2 fun a b shc => logicalOut s (a &&& b) shc)

/-- TEQ (R229). -/
def execTeq (c : Cond) (rn : Reg) (op2 : Operand2) (s : State) : Host.Outcome State Fault Refusal :=
  whenPassed c s (dataProcessing s true none (some rn) op2 fun a b shc => logicalOut s (a ^^^ b) shc)

/-- CMP (R230). -/
def execCmp (c : Cond) (rn : Reg) (op2 : Operand2) (s : State) : Host.Outcome State Fault Refusal :=
  whenPassed c s (dataProcessing s true none (some rn) op2 fun a b _ => addWithCarry a (~~~b) true)

/-- CMN (R231). -/
def execCmn (c : Cond) (rn : Reg) (op2 : Operand2) (s : State) : Host.Outcome State Fault Refusal :=
  whenPassed c s (dataProcessing s true none (some rn) op2 fun a b _ => addWithCarry a b false)

end Sys2Proof.Machine
end

