-- ==== Sys2Proof/Machine/LoadStore.lean ====
section
/-! DEFINITION. The loads and stores (45_load_store.md). -/

namespace Sys2Proof.Machine

/-- LDR (R310). -/
def execLdr (c : Cond) (p u w : Bool) (rd rn : Reg) (off : Offset) (s : State) : Host.Outcome State Fault Refusal :=
  whenPassed c s (loadInto s p u w rd rn off fun a => loadWord s a)

/-- STR (R311). -/
def execStr (c : Cond) (p u w : Bool) (rd rn : Reg) (off : Offset) (s : State) : Host.Outcome State Fault Refusal :=
  whenPassed c s (storeFrom s p u w rd rn off fun a => storeWord s a (s.x rd))

/-- LDRB (R312): the byte is zero-extended. -/
def execLdrb (c : Cond) (p u w : Bool) (rd rn : Reg) (off : Offset) (s : State) : Host.Outcome State Fault Refusal :=
  whenPassed c s (loadInto s p u w rd rn off fun a => (loadByte s a).map fun b => b.zeroExtend 32)

/-- STRB (R313): only bits 7:0 of Rd are stored. -/
def execStrb (c : Cond) (p u w : Bool) (rd rn : Reg) (off : Offset) (s : State) : Host.Outcome State Fault Refusal :=
  whenPassed c s (storeFrom s p u w rd rn off fun a => storeByte s a (byteOfWord (s.x rd) 0))

end Sys2Proof.Machine
end

