-- ==== Sys2Proof/Machine/Logical.lean ====
section
/-! DEFINITION. The logical instructions (42_data_processing.md, section 2). -/

namespace Sys2Proof.Machine

/-- AND (R220). -/
def execAnd (c : Cond) (sf : Bool) (rd rn : Reg) (op2 : Operand2) (s : State) : Host.Outcome State Fault Refusal :=
  whenPassed c s (dataProcessing s sf (some rd) (some rn) op2 fun a b shc => logicalOut s (a &&& b) shc)

/-- EOR (R221). -/
def execEor (c : Cond) (sf : Bool) (rd rn : Reg) (op2 : Operand2) (s : State) : Host.Outcome State Fault Refusal :=
  whenPassed c s (dataProcessing s sf (some rd) (some rn) op2 fun a b shc => logicalOut s (a ^^^ b) shc)

/-- ORR (R232). -/
def execOrr (c : Cond) (sf : Bool) (rd rn : Reg) (op2 : Operand2) (s : State) : Host.Outcome State Fault Refusal :=
  whenPassed c s (dataProcessing s sf (some rd) (some rn) op2 fun a b shc => logicalOut s (a ||| b) shc)

/-- BIC (R234): the complement is taken after the shift, the carry is that of the operand before it. -/
def execBic (c : Cond) (sf : Bool) (rd rn : Reg) (op2 : Operand2) (s : State) : Host.Outcome State Fault Refusal :=
  whenPassed c s (dataProcessing s sf (some rd) (some rn) op2 fun a b shc => logicalOut s (a &&& ~~~b) shc)

end Sys2Proof.Machine
end

