-- ==== Sys2Proof/Machine/Move.lean ====
section
/-! DEFINITION. The moves (42_data_processing.md, section 5). They read no Rn (R112). -/

namespace Sys2Proof.Machine

/-- MOV (R233). -/
def execMov (c : Cond) (sf : Bool) (rd : Reg) (op2 : Operand2) (s : State) : Host.Outcome State Fault Refusal :=
  whenPassed c s (dataProcessing s sf (some rd) none op2 fun _ b shc => logicalOut s b shc)

/-- MVN (R235). -/
def execMvn (c : Cond) (sf : Bool) (rd : Reg) (op2 : Operand2) (s : State) : Host.Outcome State Fault Refusal :=
  whenPassed c s (dataProcessing s sf (some rd) none op2 fun _ b shc => logicalOut s (~~~b) shc)

end Sys2Proof.Machine
end

