-- ==== Sys2Proof/Machine/Multiply.lean ====
section
/-! DEFINITION. The multiplies (46_multiply.md). -/

namespace Sys2Proof.Machine

/-- MUL (R331); R15 as Rd, Rm or Rs is refused before any effect (R330). -/
def execMul (c : Cond) (sf : Bool) (rd rs rm : Reg) (s : State) : Host.Outcome State Fault Refusal :=
  whenPassed c s
    (if rd = 15 ∨ rm = 15 ∨ rs = 15 then .error (.unsupported .pcInMultiply)
     else .ok (multiplyInto s sf rd (s.x rm * s.x rs)))

/-- MLA (R332); R15 as Rd, Rm, Rs or Rn is refused before any effect (R330). -/
def execMla (c : Cond) (sf : Bool) (rd rn rs rm : Reg) (s : State) : Host.Outcome State Fault Refusal :=
  whenPassed c s
    (if rd = 15 ∨ rm = 15 ∨ rs = 15 ∨ rn = 15 then .error (.unsupported .pcInMultiply)
     else .ok (multiplyInto s sf rd (s.x rm * s.x rs + s.x rn)))

end Sys2Proof.Machine
end

