-- ==== Sys2Proof/Machine/Shift.lean ====
section
/-!
DEFINITION. The standalone shift mnemonics (43_shift_aliases.md): the barrel shifter's value written to Rd. The
decoder gives MOV for their words (R144); these are the meanings of the spellings themselves.
-/

namespace Sys2Proof.Machine

/-- A shifted register moved to Rd (R260 to R268). -/
def moveShifted (s : State) (sf : Bool) (rd : Reg) (op2 : Operand2) : Except Raise State :=
  dataProcessing s sf (some rd) none op2 fun _ b shc => logicalOut s b shc

/-- LSL by immediate (R260) or register (R261). -/
def execLsl (c : Cond) (sf : Bool) (rd rm : Reg) (amt : ShiftAmount) (s : State) : Host.Outcome State Fault Refusal :=
  whenPassed c s (moveShifted s sf rd (shiftOperand2 .lsl rm amt))

/-- LSR by immediate (R262) or register (R263). -/
def execLsr (c : Cond) (sf : Bool) (rd rm : Reg) (amt : ShiftAmount) (s : State) : Host.Outcome State Fault Refusal :=
  whenPassed c s (moveShifted s sf rd (shiftOperand2 .lsr rm amt))

/-- ASR by immediate (R264) or register (R265). -/
def execAsr (c : Cond) (sf : Bool) (rd rm : Reg) (amt : ShiftAmount) (s : State) : Host.Outcome State Fault Refusal :=
  whenPassed c s (moveShifted s sf rd (shiftOperand2 .asr rm amt))

/-- ROR by immediate (R266) or register (R267). -/
def execRor (c : Cond) (sf : Bool) (rd rm : Reg) (amt : ShiftAmount) (s : State) : Host.Outcome State Fault Refusal :=
  whenPassed c s (moveShifted s sf rd (shiftOperand2 .ror rm amt))

/-- RRX (R268). -/
def execRrx (c : Cond) (sf : Bool) (rd rm : Reg) (s : State) : Host.Outcome State Fault Refusal :=
  whenPassed c s (moveShifted s sf rd (.shImm rm .ror 0#5))

end Sys2Proof.Machine
end

