-- ==== Sys2Proof/Machine/Swi.lean ====
section
/-! DEFINITION. The software interrupt (47_swi.md). -/

namespace Sys2Proof.Machine

/-- SWI (R350): `Trap(code = zext_32(imm24), next)` with only the PC advanced; no mode, link register, status or
vector (R366). -/
def execSwi (c : Cond) (imm24 : BitVec 24) (s : State) : Host.Outcome State Fault Refusal :=
  whenPassed c s (.ok (s.takeTrap (imm24.zeroExtend 32)))

end Sys2Proof.Machine
end

