-- ==== Sys2Proof/Machine/Dispatch.lean ====
section
/-! DEFINITION. The Operation Dispatch Table (40_execution_cycle.md R144): one arm per instruction, no default arm. -/

namespace Sys2Proof.Machine

def exec (i : Instr) (s : State) : Host.Outcome State Fault Refusal :=
  match i with
  | .and c sf rd rn op2 => Sys2Proof.Machine.execAnd c sf rd rn op2 s
  | .eor c sf rd rn op2 => Sys2Proof.Machine.execEor c sf rd rn op2 s
  | .sub c sf rd rn op2 => Sys2Proof.Machine.execSub c sf rd rn op2 s
  | .rsb c sf rd rn op2 => Sys2Proof.Machine.execRsb c sf rd rn op2 s
  | .add c sf rd rn op2 => Sys2Proof.Machine.execAdd c sf rd rn op2 s
  | .adc c sf rd rn op2 => Sys2Proof.Machine.execAdc c sf rd rn op2 s
  | .sbc c sf rd rn op2 => Sys2Proof.Machine.execSbc c sf rd rn op2 s
  | .rsc c sf rd rn op2 => Sys2Proof.Machine.execRsc c sf rd rn op2 s
  | .tst c rn op2 => Sys2Proof.Machine.execTst c rn op2 s
  | .teq c rn op2 => Sys2Proof.Machine.execTeq c rn op2 s
  | .cmp c rn op2 => Sys2Proof.Machine.execCmp c rn op2 s
  | .cmn c rn op2 => Sys2Proof.Machine.execCmn c rn op2 s
  | .orr c sf rd rn op2 => Sys2Proof.Machine.execOrr c sf rd rn op2 s
  | .mov c sf rd op2 => Sys2Proof.Machine.execMov c sf rd op2 s
  | .bic c sf rd rn op2 => Sys2Proof.Machine.execBic c sf rd rn op2 s
  | .mvn c sf rd op2 => Sys2Proof.Machine.execMvn c sf rd op2 s
  | .lsl c sf rd rm amt => Sys2Proof.Machine.execLsl c sf rd rm amt s
  | .lsr c sf rd rm amt => Sys2Proof.Machine.execLsr c sf rd rm amt s
  | .asr c sf rd rm amt => Sys2Proof.Machine.execAsr c sf rd rm amt s
  | .ror c sf rd rm amt => Sys2Proof.Machine.execRor c sf rd rm amt s
  | .rrx c sf rd rm => Sys2Proof.Machine.execRrx c sf rd rm s
  | .b c imm24 => Sys2Proof.Machine.execB c imm24 s
  | .bl c imm24 => Sys2Proof.Machine.execBl c imm24 s
  | .ldr c p u w rd rn off => Sys2Proof.Machine.execLdr c p u w rd rn off s
  | .str c p u w rd rn off => Sys2Proof.Machine.execStr c p u w rd rn off s
  | .ldrb c p u w rd rn off => Sys2Proof.Machine.execLdrb c p u w rd rn off s
  | .strb c p u w rd rn off => Sys2Proof.Machine.execStrb c p u w rd rn off s
  | .mul c sf rd rs rm => Sys2Proof.Machine.execMul c sf rd rs rm s
  | .mla c sf rd rn rs rm => Sys2Proof.Machine.execMla c sf rd rn rs rm s
  | .swi c imm24 => Sys2Proof.Machine.execSwi c imm24 s

end Sys2Proof.Machine
end

