-- ==== Sys2Proof/Machine/Cycle.lean ====
section
/-! DEFINITION. ExecuteOne and the composition of fetch and ExecuteOne (40_execution_cycle.md R140, R141). -/

namespace Sys2Proof.Machine

/-- `ExecuteOne(s, w)` (R141), the checks in the order of R116: cond 1111, the condition, the classification, the
handler. -/
def executeOne (s : State) (w : Word) : Host.Outcome State Fault Refusal :=
  match condOfBits (fieldOf w 28 4) with
  | none => .fault (.decodeFault .condNV (some w) s.pc)
  | some c =>
    if conditionPassed c s.cpsr = false then .next s.advance
    else match decodeClass s.cfg c w with
      | .error r => .fault (.decodeFault r (some w) s.pc)
      | .ok i => nameWord w (exec i s)

/-- `Step(s)` (R141): fetch at x[15], then ExecuteOne on the word. A fetch fault has no word. -/
def stepOnce (s : State) : Host.Outcome State Fault Refusal :=
  match fetch s.beginStep with
  | .error r => .fault (r.toFault none s.pc)
  | .ok w => executeOne s.beginStep w

end Sys2Proof.Machine
end

