-- ==== Sys2Proof/Machine/Step.lean ====
section
/-! DEFINITION. The step the host runs (40_execution_cycle.md R141), and a word placed where it is fetched. -/

namespace Sys2Proof.Machine

/-- One step of the machine. -/
def step : State → Host.Outcome State Fault Refusal := stepOnce

/-- The state with the word of the low `nbits` bits of `w` stored where `step` fetches next (log entry 15). -/
def State.withFetchWord (s : State) (nbits w : Nat) : State := placeWord s (tableWord nbits w)

end Sys2Proof.Machine
end

