-- ==== Sys2Proof/Safety.lean ====
section
/-!
DEFINITION. What claims about this machine are stated in: the invariant of a run, runs up to the first trap or fault
(40_execution_cycle.md R155), the conditions under which an instruction executes normally, the results the rules give,
and what an instruction leaves unchanged.
-/

namespace Sys2Proof.Machine

/-! The invariant -/

/-- A trap code is a 24-bit field (R350). -/
def trapCodeInRange : Option Word → Bool
  | none => true
  | some code => decide (code.toNat < 2 ^ 24)

/-- The invariant of a run: the PC is word aligned (R38), memory is in its canonical form, a trap tag holds a code SWI
can give. -/
abbrev State.Inv (s : State) : Prop :=
  wordAligned s.pc = true ∧ Memory.wf s.mem = true ∧ trapCodeInRange s.trap = true

/-- A launch the spec allows: an aligned entry point (R400), memory data in canonical form. -/
abbrev Launch.Legal (l : Launch) : Prop := wordAligned l.entryPc = true ∧ Memory.wf l.initMem = true

/-! Runs (R155) -/

/-- How a run under fuel ends. -/
inductive RunEnd where
  /-- at the first `Trap(code, state)` -/
  | trapped (code : Word) (s : State)
  /-- at the first fault, with the committed state (R151) -/
  | faulted (f : Fault) (s : State)
  | refused (r : Refusal) (s : State)
  /-- the fuel ran out -/
  | running (s : State)
  deriving DecidableEq, Repr

/-- A run of at most `fuel` steps, ended by the first trap or fault (R155). -/
def run : Nat → State → RunEnd
  | 0, s => .running s
  | fuel + 1, s =>
    match step s with
    | .fault f => .faulted f s
    | .refused r => .refused r s
    | .next t =>
      match t.trap with
      | some code => .trapped code t
      | none => run fuel t

/-- The state a run ends in. -/
def RunEnd.state : RunEnd → State
  | .trapped _ s => s
  | .faulted _ s => s
  | .refused _ s => s
  | .running s => s

/-! Parts of a fault (R151) -/

def Fault.wordOf : Fault → Option Word
  | .decodeFault _ w _ => w
  | .unsupportedEncoding _ w _ => w
  | .memoryFault _ w _ _ => w

def Fault.pcOf : Fault → Word
  | .decodeFault _ _ pc => pc
  | .unsupportedEncoding _ _ pc => pc
  | .memoryFault _ _ pc _ => pc

/-! Executing normally -/

/-- A write of `result` to `rd` by a data-processing instruction is allowed (R211). -/
abbrev DestinationAllowed (rd : Reg) (sf : Bool) (result : Word) : Prop :=
  rd = 15 → sf = false ∧ wordAligned result = true

/-- A data-processing instruction whose condition passes reads its operands: no R15 in a register shift (R191), Rn and
operand-2 readable (R34, R180), with the values `a` and `b`. -/
abbrev OperandsRead (c : Cond) (s : State) (rd rn : Option Reg) (op2 : Operand2) (a : Word) (b : Shifted) : Prop :=
  conditionPassed c s.cpsr = true ∧ checkRegisterShift rd rn op2 = .ok () ∧ operand2 s op2 = .ok b ∧ readRn s rn = .ok a

/-- A load or store whose condition passes computes the address `a` (R300 to R302). -/
abbrev AddressComputed (c : Cond) (s : State) (p u w : Bool) (rd rn : Reg) (off : Offset) (base a : Word) : Prop :=
  conditionPassed c s.cpsr = true ∧ p = true ∧ w = false ∧ rd ≠ 15 ∧ offsetNamesPc off = false ∧
    readReg s rn = .ok base ∧
    a = if u = true then base + loadStoreOffset s off else base - loadStoreOffset s off

/-! The next states the rules give -/

/-- The next snapshot of an instruction that writes `result` to `rd`: a write of R15 is a jump, any other register's
write goes with the advance of the PC (R36, R211). -/
def afterWrite (s : State) (rd : Reg) (result : Word) : State :=
  if rd = 15 then s.setX 15 result else (s.setX 15 (s.x 15 + 4#32)).setX rd result

/-- Flags written where `set` is true: N and Z from the result, C and V as given (R146). -/
def withFlags (t : State) (set : Bool) (result : Word) (c v : Bool) : State :=
  if set = true then
    { t with cpsr := { n := result.getLsbD 31, z := decide (result = 0#32), c := c, v := v, low := t.cpsr.low } }
  else t

/-- A signed value lies outside -2^31 .. 2^31 - 1 (R213). -/
abbrev outOfRange (x : Int) : Bool := decide (x < -2147483648 ∨ 2147483647 < x)

/-- The instruction writes `result` to R15 with S = 0 (R211): a jump, the PC not advanced, if the result is word
aligned, and UnsupportedEncoding(PcWriteMisaligned) if not. -/
abbrev JumpsTo (s : State) (i : Instr) (result : Word) : Prop :=
  (wordAligned result = true → exec i s = .next (s.setX 15 result)) ∧
  (wordAligned result = false → exec i s = .fault (.unsupportedEncoding .pcWriteMisaligned none s.pc))

/-- A multiply completes with `result` in `rd` and the PC advanced (R331 to R333). `plain` is the instruction with
S = 0: no flag changes. `flagged` is it with S = 1: N and Z are the result's; C and V are kept under
`MULS_CV = UNCHANGED`, and are two drawn bits, of which nothing is said, under `DRAW`. -/
abbrev MultipliesTo (s : State) (rd : Reg) (result : Word) (plain flagged : Instr) : Prop :=
  exec plain s = .next ((s.setX 15 (s.x 15 + 4#32)).setX rd result) ∧
  (s.cfg.mulsCv = .unchanged → exec flagged s =
    .next (withFlags ((s.setX 15 (s.x 15 + 4#32)).setX rd result) true result s.cpsr.c s.cpsr.v)) ∧
  (s.cfg.mulsCv = .draw → ∃ cBit vBit, exec flagged s =
    .next { withFlags ((s.setX 15 (s.x 15 + 4#32)).setX rd result) true result cBit vBit with draws := s.draws + 2 })

/-! Frames: what stays as it was -/

/-- Every byte of memory, the parameters, the outcome tag and the count of drawn bits. -/
abbrev SameOutside (s t : State) : Prop :=
  (∀ a, t.byteAt a = s.byteAt a) ∧ t.cfg = s.cfg ∧ t.trap = s.trap ∧ t.draws = s.draws

/-- Every register but R15 and those of `written`. -/
abbrev SameRegisters (s t : State) (written : List Reg) : Prop :=
  ∀ r : Reg, r ≠ 15 → r ∉ written → t.x r = s.x r

/-! Classes of instructions (R33, R44) -/

/-- The general register R0 to R14 an instruction writes, if any (R33). -/
def writtenRegister : Instr → Option Reg
  | .and _ _ rd _ _ => some rd
  | .eor _ _ rd _ _ => some rd
  | .sub _ _ rd _ _ => some rd
  | .rsb _ _ rd _ _ => some rd
  | .add _ _ rd _ _ => some rd
  | .adc _ _ rd _ _ => some rd
  | .sbc _ _ rd _ _ => some rd
  | .rsc _ _ rd _ _ => some rd
  | .tst _ _ _ => none
  | .teq _ _ _ => none
  | .cmp _ _ _ => none
  | .cmn _ _ _ => none
  | .orr _ _ rd _ _ => some rd
  | .mov _ _ rd _ => some rd
  | .bic _ _ rd _ _ => some rd
  | .mvn _ _ rd _ => some rd
  | .lsl _ _ rd _ _ => some rd
  | .lsr _ _ rd _ _ => some rd
  | .asr _ _ rd _ _ => some rd
  | .ror _ _ rd _ _ => some rd
  | .rrx _ _ rd _ => some rd
  | .b _ _ => none
  | .bl _ _ => some 14
  | .ldr _ _ _ _ rd _ _ => some rd
  | .str _ _ _ _ _ _ _ => none
  | .ldrb _ _ _ _ rd _ _ => some rd
  | .strb _ _ _ _ _ _ _ => none
  | .mul _ _ rd _ _ => some rd
  | .mla _ _ rd _ _ _ => some rd
  | .swi _ _ => none

/-- The instructions that write flags: data processing and multiplies with S = 1, and the comparisons (R44). -/
def writesFlags : Instr → Bool
  | .and _ sf _ _ _ => sf
  | .eor _ sf _ _ _ => sf
  | .sub _ sf _ _ _ => sf
  | .rsb _ sf _ _ _ => sf
  | .add _ sf _ _ _ => sf
  | .adc _ sf _ _ _ => sf
  | .sbc _ sf _ _ _ => sf
  | .rsc _ sf _ _ _ => sf
  | .tst _ _ _ => true
  | .teq _ _ _ => true
  | .cmp _ _ _ => true
  | .cmn _ _ _ => true
  | .orr _ sf _ _ _ => sf
  | .mov _ sf _ _ => sf
  | .bic _ sf _ _ _ => sf
  | .mvn _ sf _ _ => sf
  | .lsl _ sf _ _ _ => sf
  | .lsr _ sf _ _ _ => sf
  | .asr _ sf _ _ _ => sf
  | .ror _ sf _ _ _ => sf
  | .rrx _ sf _ _ => sf
  | .b _ _ => false
  | .bl _ _ => false
  | .ldr _ _ _ _ _ _ _ => false
  | .str _ _ _ _ _ _ _ => false
  | .ldrb _ _ _ _ _ _ _ => false
  | .strb _ _ _ _ _ _ _ => false
  | .mul _ sf _ _ _ => sf
  | .mla _ sf _ _ _ _ => sf
  | .swi _ _ => false

/-- The operands of a data-processing instruction (R210): S, Rd where it writes one, Rn where it reads one, operand-2. -/
structure DataOperands where
  sf : Bool
  rd : Option Reg
  rn : Option Reg
  op2 : Operand2
  deriving DecidableEq, Repr

/-- The operands of `i`, if `i` is a data-processing instruction or a shift mnemonic. -/
def dataOperands : Instr → Option DataOperands
  | .and _ sf rd rn op2 => some ⟨sf, some rd, some rn, op2⟩
  | .eor _ sf rd rn op2 => some ⟨sf, some rd, some rn, op2⟩
  | .sub _ sf rd rn op2 => some ⟨sf, some rd, some rn, op2⟩
  | .rsb _ sf rd rn op2 => some ⟨sf, some rd, some rn, op2⟩
  | .add _ sf rd rn op2 => some ⟨sf, some rd, some rn, op2⟩
  | .adc _ sf rd rn op2 => some ⟨sf, some rd, some rn, op2⟩
  | .sbc _ sf rd rn op2 => some ⟨sf, some rd, some rn, op2⟩
  | .rsc _ sf rd rn op2 => some ⟨sf, some rd, some rn, op2⟩
  | .tst _ rn op2 => some ⟨true, none, some rn, op2⟩
  | .teq _ rn op2 => some ⟨true, none, some rn, op2⟩
  | .cmp _ rn op2 => some ⟨true, none, some rn, op2⟩
  | .cmn _ rn op2 => some ⟨true, none, some rn, op2⟩
  | .orr _ sf rd rn op2 => some ⟨sf, some rd, some rn, op2⟩
  | .mov _ sf rd op2 => some ⟨sf, some rd, none, op2⟩
  | .bic _ sf rd rn op2 => some ⟨sf, some rd, some rn, op2⟩
  | .mvn _ sf rd op2 => some ⟨sf, some rd, none, op2⟩
  | .lsl _ sf rd rm amt => some ⟨sf, some rd, none, shiftOperand2 .lsl rm amt⟩
  | .lsr _ sf rd rm amt => some ⟨sf, some rd, none, shiftOperand2 .lsr rm amt⟩
  | .asr _ sf rd rm amt => some ⟨sf, some rd, none, shiftOperand2 .asr rm amt⟩
  | .ror _ sf rd rm amt => some ⟨sf, some rd, none, shiftOperand2 .ror rm amt⟩
  | .rrx _ sf rd rm => some ⟨sf, some rd, none, .shImm rm .ror 0#5⟩
  | .b _ _ => none
  | .bl _ _ => none
  | .ldr _ _ _ _ _ _ _ => none
  | .str _ _ _ _ _ _ _ => none
  | .ldrb _ _ _ _ _ _ _ => none
  | .strb _ _ _ _ _ _ _ => none
  | .mul _ _ _ _ _ => none
  | .mla _ _ _ _ _ _ => none
  | .swi _ _ => none

/-- The instructions of the logical flag class (R147): C from the shifter, V unchanged. -/
def isLogical : Instr → Bool
  | .and _ _ _ _ _ => true
  | .eor _ _ _ _ _ => true
  | .sub _ _ _ _ _ => false
  | .rsb _ _ _ _ _ => false
  | .add _ _ _ _ _ => false
  | .adc _ _ _ _ _ => false
  | .sbc _ _ _ _ _ => false
  | .rsc _ _ _ _ _ => false
  | .tst _ _ _ => true
  | .teq _ _ _ => true
  | .cmp _ _ _ => false
  | .cmn _ _ _ => false
  | .orr _ _ _ _ _ => true
  | .mov _ _ _ _ => true
  | .bic _ _ _ _ _ => true
  | .mvn _ _ _ _ => true
  | .lsl _ _ _ _ _ => true
  | .lsr _ _ _ _ _ => true
  | .asr _ _ _ _ _ => true
  | .ror _ _ _ _ _ => true
  | .rrx _ _ _ _ => true
  | .b _ _ => false
  | .bl _ _ => false
  | .ldr _ _ _ _ _ _ _ => false
  | .str _ _ _ _ _ _ _ => false
  | .ldrb _ _ _ _ _ _ _ => false
  | .strb _ _ _ _ _ _ _ => false
  | .mul _ _ _ _ _ => false
  | .mla _ _ _ _ _ _ => false
  | .swi _ _ => false

/-! Encodings -/

/-- The bits of the Rd field of a data-processing word (R92). -/
def rdMask : RegLayout → Word
  | .doc => 0x000F0000#32
  | .arm => 0x0000F000#32

/-- The bits of the Rn field of a data-processing word (R92). -/
def rnMask : RegLayout → Word
  | .doc => 0x0000F000#32
  | .arm => 0x000F0000#32

/-- The should-be-zero bits of an instruction's word, which decoding ignores (R112). -/
def ignoredBits (lay : RegLayout) : Instr → Word
  | .tst _ _ _ => rdMask lay
  | .teq _ _ _ => rdMask lay
  | .cmp _ _ _ => rdMask lay
  | .cmn _ _ _ => rdMask lay
  | .mov _ _ _ _ => rnMask lay
  | .mvn _ _ _ _ => rnMask lay
  | .mul _ _ _ _ _ => 0x0000F000#32
  | _ => 0#32

/-! Bits no instruction uses (R39) -/

/-- The state with other bits 27:0 of the CPSR. -/
def State.withCpsrLow (s : State) (low : BitVec 28) : State := { s with cpsr := { s.cpsr with low := low } }

/-- An outcome with its next state changed by `f`. -/
def onNext (f : State → State) : Host.Outcome State Fault Refusal → Host.Outcome State Fault Refusal
  | .next s => .next (f s)
  | .fault r => .fault r
  | .refused r => .refused r

end Sys2Proof.Machine
end

