-- ==== Sys2Proof/Certificates/Slice0/Obligations.lean ====
section
/-!
DEFINITION. The statements for the provers. Each docstring names the rule of spec/ it formalises. A fault that `exec`
alone answers names no word; the step fills it in (log entry 14).
-/

open Sys2Proof Sys2Proof.Machine

/-! Encoding (30_encoding.md) -/

/-- R119: decoding the encoded form of an instruction returns the same fields, a shift mnemonic as the MOV it spells
(R118); and the rule's own instance, under both layouts. -/
def Obligations.EncodedInstructionDecodesToItself : Prop :=
  (∀ (cfg : Config) (i : Instr), i.wf cfg = true → decodeWord cfg (encode cfg i) = .ok (canonicalInstr i)) ∧
  encode Config.hardware (.add .al false 0 1 (.shImm 2 .lsl 0#5)) = 0xE0801002#32 ∧
  encode { Config.hardware with regLayout := .arm } (.add .al false 0 1 (.shImm 2 .lsl 0#5)) = 0xE0810002#32

/-- R99 to R104, R112: encoding what a word decodes to gives the word back, its should-be-zero bits apart; what a word
decodes to is well formed and no shift mnemonic. -/
def Obligations.DecodedWordEncodesBack : Prop :=
  ∀ (cfg : Config) (w : Word) (i : Instr), decodeWord cfg w = .ok i →
    i.wf cfg = true ∧ canonicalInstr i = i ∧ encode cfg i = w &&& ~~~(ignoredBits cfg.regLayout i)

/-- R112: whatever stands in the Rn field of MOV and MVN, the Rd field of the comparisons and bits 15:12 of MUL, the
word decodes to the same instruction. -/
def Obligations.ShouldBeZeroFieldsAreIgnored : Prop :=
  ∀ (cfg : Config) (c : Cond) (z : BitVec 4),
    (∀ sf rd op2, decodeWord cfg (encodeDataProcessing cfg.regLayout c 0b1101#4 sf (regBits rd) z op2) =
      .ok (.mov c sf rd op2)) ∧
    (∀ sf rd op2, decodeWord cfg (encodeDataProcessing cfg.regLayout c 0b1111#4 sf (regBits rd) z op2) =
      .ok (.mvn c sf rd op2)) ∧
    (∀ rn op2, decodeWord cfg (encodeDataProcessing cfg.regLayout c 0b1000#4 true z (regBits rn) op2) =
      .ok (.tst c rn op2)) ∧
    (∀ rn op2, decodeWord cfg (encodeDataProcessing cfg.regLayout c 0b1001#4 true z (regBits rn) op2) =
      .ok (.teq c rn op2)) ∧
    (∀ rn op2, decodeWord cfg (encodeDataProcessing cfg.regLayout c 0b1010#4 true z (regBits rn) op2) =
      .ok (.cmp c rn op2)) ∧
    (∀ rn op2, decodeWord cfg (encodeDataProcessing cfg.regLayout c 0b1011#4 true z (regBits rn) op2) =
      .ok (.cmn c rn op2)) ∧
    (∀ sf rd rs rm, decodeWord cfg (encodeMultiply c false sf (regBits rd) z (regBits rs) (regBits rm)) =
      .ok (.mul c sf rd rs rm))

/-- 95_test_vectors.md, section 11 and the families' examples: words written out from the encodings decode to the
instructions they stand for. -/
def Obligations.SampleWordsDecode : Prop :=
  decodeWord Config.hardware 0xE21010FF#32 = .ok (.and .al true 0 1 (.imm 0#4 0xFF#8)) ∧
  decodeWord Config.hardware 0xE0801002#32 = .ok (.add .al false 0 1 (.shImm 2 .lsl 0#5)) ∧
  decodeWord Config.hardware 0xE1500000#32 = .ok (.cmp .al 0 (.shImm 0 .lsl 0#5)) ∧
  decodeWord Config.hardware 0xE1B00211#32 = .ok (.mov .al true 0 (.shReg 1 .lsl 2)) ∧
  decodeWord Config.hardware 0xEB000004#32 = .ok (.bl .al 4#24) ∧
  decodeWord Config.hardware 0xE7102001#32 = .ok (.ldr .al true false false 0 2 (.reg 1 .lsl 0#5)) ∧
  decodeWord Config.hardware 0xE5C12001#32 = .ok (.strb .al true true false 1 2 (.imm 1#12)) ∧
  decodeWord Config.hardware 0xE0203291#32 = .ok (.mla .al false 0 3 2 1) ∧
  decodeWord Config.hardware 0xEF123456#32 = .ok (.swi .al 0x123456#24) ∧
  decodeWord Config.hardware 0xE12FFF1E#32 = .error .compareWithoutS

/-- R105, R106, R107: a fetched word whose condition passes and which the dispatch table does not name faults, by the
reason of its class. -/
def Obligations.UnadmittedWordsFault : Prop :=
  ∀ (s : State) (w : Word) (c : Cond), fetch s.beginStep = .ok w → condOfBits (fieldOf w 28 4) = some c →
    conditionPassed c s.cpsr = true →
    (fieldOf w 24 4 = 0b1110#4 ∨ fieldOf w 25 3 = 0b110#3 →
      step s = .fault (.decodeFault .coprocessor (some w) s.pc)) ∧
    (fieldOf w 25 3 = 0b100#3 → step s = .fault (.decodeFault .blockTransfer (some w) s.pc)) ∧
    (fieldOf w 25 3 = 0b011#3 → bitOf w 4 = true → step s = .fault (.decodeFault .undefinedSpace (some w) s.pc)) ∧
    (fieldOf w 25 3 = 0b000#3 → bitOf w 7 = true → bitOf w 4 = true →
      ¬ (fieldOf w 22 6 = 0b000000#6 ∧ fieldOf w 4 4 = 0b1001#4) →
      step s = .fault (.decodeFault .reservedBit7Bit4 (some w) s.pc)) ∧
    (fieldOf w 26 2 = 0b00#2 → fieldOf w 23 2 = 0b10#2 → bitOf w 20 = false →
      ¬ (bitOf w 25 = false ∧ bitOf w 7 = true ∧ bitOf w 4 = true) →
      step s = .fault (.decodeFault .compareWithoutS (some w) s.pc))

/-- R108: RSB and RSC words are DecodeFault(RsbRscNotAdmitted) under `ADMIT_RSB_RSC = false`, the value for this
hardware, and execute under `true`. -/
def Obligations.RsbAndRscAreAdmittedByParameter : Prop :=
  Config.hardware.admitRsbRsc = false ∧
  ∀ (s : State) (w : Word) (c : Cond), fetch s.beginStep = .ok w → condOfBits (fieldOf w 28 4) = some c →
    conditionPassed c s.cpsr = true → fieldOf w 26 2 = 0b00#2 →
    ¬ (bitOf w 25 = false ∧ bitOf w 7 = true ∧ bitOf w 4 = true) →
    (s.cfg.admitRsbRsc = false → fieldOf w 21 4 = 0b0011#4 ∨ fieldOf w 21 4 = 0b0111#4 →
      step s = .fault (.decodeFault .rsbRscNotAdmitted (some w) s.pc)) ∧
    (s.cfg.admitRsbRsc = true → fieldOf w 21 4 = 0b0011#4 →
      step s = nameWord w (exec (.rsb c (bitOf w 20) (decodeRd s.cfg.regLayout w) (decodeRn s.cfg.regLayout w)
        (decodeOperand2 w)) s.beginStep)) ∧
    (s.cfg.admitRsbRsc = true → fieldOf w 21 4 = 0b0111#4 →
      step s = nameWord w (exec (.rsc c (bitOf w 20) (decodeRd s.cfg.regLayout w) (decodeRn s.cfg.regLayout w)
        (decodeOperand2 w)) s.beginStep))

/-- R110: a fetched word with cond = 1111 faults, whatever its other bits and the flags. -/
def Obligations.ConditionNvFaults : Prop :=
  ∀ (s : State) (w : Word), fetch s.beginStep = .ok w → fieldOf w 28 4 = 0b1111#4 →
    step s = .fault (.decodeFault .condNV (some w) s.pc)

/-! The step (40_execution_cycle.md, 20_memory.md R70) -/

/-- R141: when the word at the program counter decodes to an instruction, the step is `exec` of it on the state with
the outcome tag cleared (log entry 11), a fault naming the fetched word; from the bytes of data memory under UNIFIED,
from the program image under SEPARATE. -/
def Obligations.StepRunsTheDecodedInstruction : Prop :=
  (∀ (s : State) (i : Instr), s.cfg.codeMem = .unified → wordAligned s.pc = true →
    memAdmit s.cfg s.pc .word .fetch = true →
    decodeBytes s.cfg [s.byteAt s.pc, s.byteAt (s.pc + 1#32), s.byteAt (s.pc + 2#32), s.byteAt (s.pc + 3#32)] =
      .instr i [] →
    step s = nameWord (s.wordAt s.pc) (exec i { s with trap := none })) ∧
  (∀ (s : State) (w : Word) (i : Instr), s.cfg.codeMem = .separate → wordAligned s.pc = true →
    progAt s.cfg.prog s.pc = some w → decodeWord s.cfg w = .ok i →
    step s = nameWord w (exec i { s with trap := none }))

/-- R70: the fetch at the program counter, its checks in order, and the faults of a step they become (no word). -/
def Obligations.FetchFollowsTheRule : Prop :=
  ∀ s : State,
    (wordAligned s.pc = false → step s = .fault (.memoryFault .misaligned none s.pc s.pc)) ∧
    (wordAligned s.pc = true → s.cfg.codeMem = .unified → memAdmit s.cfg s.pc .word .fetch = false →
      step s = .fault (.memoryFault .rejected none s.pc s.pc)) ∧
    (wordAligned s.pc = true → s.cfg.codeMem = .unified → memAdmit s.cfg s.pc .word .fetch = true →
      fetch s = .ok (s.byteAt (s.pc + 3#32) ++ s.byteAt (s.pc + 2#32) ++ s.byteAt (s.pc + 1#32) ++ s.byteAt s.pc)) ∧
    (wordAligned s.pc = true → s.cfg.codeMem = .separate → progAt s.cfg.prog s.pc = none →
      step s = .fault (.memoryFault .rejected none s.pc s.pc)) ∧
    (∀ w, wordAligned s.pc = true → s.cfg.codeMem = .separate → progAt s.cfg.prog s.pc = some w →
      fetch s = .ok w)

/-- R143: a fetched word whose condition fails, decodable or not, is skipped: no register, flag or memory effect, no
trap, and the program counter advances by one instruction. -/
def Obligations.FailedConditionOnlyAdvancesPc : Prop :=
  ∀ (s : State) (w : Word) (c : Cond), fetch s.beginStep = .ok w → condOfBits (fieldOf w 28 4) = some c →
    conditionPassed c s.cpsr = false →
    ∃ t, step s = .next t ∧ t.pc = s.pc + 4#32 ∧ (∀ r : Reg, r ≠ 15 → t.x r = s.x r) ∧ t.cpsr = s.cpsr ∧
      t.mem = s.mem ∧ t.trap = none ∧ t.draws = s.draws ∧ t.cfg = s.cfg

/-- R142: every instruction is conditional; with a failing condition its meaning only advances the PC. -/
def Obligations.EveryInstructionIsConditional : Prop :=
  ∀ (i : Instr) (s : State), conditionPassed i.cond s.cpsr = false → exec i s = .next (s.setX 15 (s.x 15 + 4#32))

/-- R96: the condition codes and their tests; 1111 has none. -/
def Obligations.ConditionTable : Prop :=
  ∀ p : Cpsr,
    (condOfBits 0b0000#4 = some .eq ∧ (conditionPassed .eq p = true ↔ p.z = true)) ∧
    (condOfBits 0b0001#4 = some .ne ∧ (conditionPassed .ne p = true ↔ p.z = false)) ∧
    (condOfBits 0b0010#4 = some .cs ∧ (conditionPassed .cs p = true ↔ p.c = true)) ∧
    (condOfBits 0b0011#4 = some .cc ∧ (conditionPassed .cc p = true ↔ p.c = false)) ∧
    (condOfBits 0b0100#4 = some .mi ∧ (conditionPassed .mi p = true ↔ p.n = true)) ∧
    (condOfBits 0b0101#4 = some .pl ∧ (conditionPassed .pl p = true ↔ p.n = false)) ∧
    (condOfBits 0b0110#4 = some .vs ∧ (conditionPassed .vs p = true ↔ p.v = true)) ∧
    (condOfBits 0b0111#4 = some .vc ∧ (conditionPassed .vc p = true ↔ p.v = false)) ∧
    (condOfBits 0b1000#4 = some .hi ∧ (conditionPassed .hi p = true ↔ p.c = true ∧ p.z = false)) ∧
    (condOfBits 0b1001#4 = some .ls ∧ (conditionPassed .ls p = true ↔ p.c = false ∨ p.z = true)) ∧
    (condOfBits 0b1010#4 = some .ge ∧ (conditionPassed .ge p = true ↔ p.n = p.v)) ∧
    (condOfBits 0b1011#4 = some .lt ∧ (conditionPassed .lt p = true ↔ p.n ≠ p.v)) ∧
    (condOfBits 0b1100#4 = some .gt ∧ (conditionPassed .gt p = true ↔ p.z = false ∧ p.n = p.v)) ∧
    (condOfBits 0b1101#4 = some .le ∧ (conditionPassed .le p = true ↔ p.z = true ∨ p.n ≠ p.v)) ∧
    (condOfBits 0b1110#4 = some .al ∧ conditionPassed .al p = true) ∧
    condOfBits 0b1111#4 = none

/-! Whole-machine rules -/

/-- R38, R61, R350: every step keeps the invariant: the PC word aligned, memory canonical, a trap code of 24 bits. -/
def Obligations.StepKeepsTheInvariant : Prop :=
  ∀ s t : State, s.Inv → step s = .next t → t.Inv

/-- R50: the launch state of every legal launch meets the invariant and holds the launch values; the reset state, whose
values are the model's choice (log entries 2 to 7), meets it too. -/
def Obligations.LaunchMeetsTheInvariant : Prop :=
  State.reset.Inv ∧
  ∀ l : Launch, l.Legal → (State.launch l).Inv ∧ (State.launch l).pc = l.entryPc ∧
    (∀ (k : Nat) (h : k < 15), (State.launch l).x ⟨k, Nat.lt_succ_of_lt h⟩ = l.initRegs[k]) ∧
    (State.launch l).cpsr.n = l.n ∧ (State.launch l).cpsr.z = l.z ∧ (State.launch l).cpsr.c = l.c ∧
    (State.launch l).cpsr.v = l.v ∧ (State.launch l).mem = l.initMem ∧ (State.launch l).cfg = l.cfg

/-- R38: the PC is word aligned in every state reached from a launch with an aligned entry point, whatever memory and
registers it is launched with; and a fetch from an unaligned PC faults. -/
def Obligations.PcIsAlignedInEveryReachedState : Prop :=
  (∀ (l : Launch) (n : Nat) (t : State), wordAligned l.entryPc = true →
    Host.Core.run Sys2Proof.core n (State.launch l) = .next t → wordAligned t.pc = true) ∧
  ∀ s : State, wordAligned s.pc = false → step s = .fault (.memoryFault .misaligned none s.pc s.pc)

/-- R39: no instruction reads or writes bits 27:0 of the CPSR: a step from a state with other such bits is the same
step, with those bits in its next state. -/
def Obligations.CpsrLowBitsAreInert : Prop :=
  ∀ (s : State) (low : BitVec 28),
    step (s.withCpsrLow low) = onNext (fun t => t.withCpsrLow low) (step s)

/-- R49: no step changes the parameters. -/
def Obligations.StepKeepsTheParameters : Prop :=
  ∀ s t : State, step s = .next t → t.cfg = s.cfg

/-- R33: no general register changes but the one its instruction writes. -/
def Obligations.OnlyTheWrittenRegisterChanges : Prop :=
  ∀ (i : Instr) (s t : State) (r : Reg), exec i s = .next t → r ≠ 15 → t.x r ≠ s.x r → writtenRegister i = some r

/-- R44, R148: B, BL, LDR, STR, LDRB, STRB, SWI and every instruction with S = 0 leave the flags as they were. -/
def Obligations.OnlyFlagWritersChangeFlags : Prop :=
  ∀ (i : Instr) (s t : State), writesFlags i = false → exec i s = .next t → t.cpsr = s.cpsr

/-- R40, R41, R146: a flag-setting instruction that writes a register sets N and Z from the value it writes. -/
def Obligations.NAndZFollowTheWrittenResult : Prop :=
  ∀ (i : Instr) (s t : State) (rd : Reg), conditionPassed i.cond s.cpsr = true → writesFlags i = true →
    writtenRegister i = some rd → exec i s = .next t →
    t.cpsr.n = (t.x rd).getLsbD 31 ∧ (t.cpsr.z = true ↔ t.x rd = 0#32)

/-- R153: a step answers Next, Trap or Fault; no instruction is refused. -/
def Obligations.NoInstructionIsRefused : Prop :=
  (∀ (i : Instr) (s : State) (r : Refusal), exec i s ≠ .refused r) ∧ ∀ (s : State) (r : Refusal), step s ≠ .refused r

/-- R151: a fault of a step carries the PC of the instruction and the fetched word, none for a fetch fault. -/
def Obligations.FaultNamesWordAndPc : Prop :=
  ∀ (s : State) (f : Fault), step s = .fault f →
    f.pcOf = s.pc ∧ (∀ w, fetch s.beginStep = .ok w → f.wordOf = some w) ∧
      (∀ r, fetch s.beginStep = .error r → f.wordOf = none)

/-- R366: the only step whose outcome is a trap is one of an SWI whose condition passed, and its code is the imm24. -/
def Obligations.OnlySwiTraps : Prop :=
  ∀ (s t : State) (code : Word), step s = .next t → t.trap = some code →
    ∃ w c imm24, fetch s.beginStep = .ok w ∧ decodeWord s.cfg w = .ok (.swi c imm24) ∧
      conditionPassed c s.cpsr = true ∧ code.toNat = imm24.toNat

/-- R155: a run ends at the first fault, with the committed state its step was taken from (R151), and at the first
trap; a fetched SWI whose condition passes is one (R350). From any other next state it continues; no run is refused.
R401, R351: the tag of the outcome before (log entry 11) changes no later step, so stepping a committed state after a
trap, or launching a run from it, goes on as from that state without the tag. -/
def Obligations.RunEndsAtTheFirstTrapOrFault : Prop :=
  ∀ (n : Nat) (s : State),
    (∀ f, step s = .fault f → run (n + 1) s = .faulted f s) ∧
    (∀ t code, step s = .next t → t.trap = some code → run (n + 1) s = .trapped code t) ∧
    (∀ t, step s = .next t → t.trap = none → run (n + 1) s = run n t) ∧
    (∀ w c imm24, fetch s = .ok w → decodeWord s.cfg w = .ok (.swi c imm24) → conditionPassed c s.cpsr = true →
      run (n + 1) s =
        .trapped (0#8 ++ imm24) { s.setX 15 (s.x 15 + 4#32) with trap := some (0#8 ++ imm24) }) ∧
    (∀ r t, run n s ≠ .refused r t) ∧
    (∀ tag, step { s with trap := tag } = step s) ∧
    (∀ tag t, step s = .next t → run (n + 1) { s with trap := tag } = run (n + 1) s)

/-! Memory (20_memory.md) -/

/-- R63, R69: a word write sets its four bytes, bits 8k+7:8k at a + k, and no other; a word read after it gives the
word; a byte write at a + k changes only those bits of the word at a. The premise is the invariant's memory form. -/
def Obligations.WordsAndBytesViewTheSameMemory : Prop :=
  ∀ (s : State) (a v : Word), Memory.wf s.mem = true →
    (∀ b : Word, (s.setWord a v).byteAt b =
      if (b - a).toNat < 4 then v.extractLsb' (8 * (b - a).toNat) 8 else s.byteAt b) ∧
    (s.setWord a v).wordAt a = v ∧
    (∀ (k : Fin 4) (d : Byte) (j : Nat), j < 32 → ((s.setByte (a + BitVec.ofNat 32 k) d).wordAt a).getLsbD j =
      if 8 * k.val ≤ j ∧ j < 8 * k.val + 8 then d.getLsbD (j - 8 * k.val) else (s.wordAt a).getLsbD j)

/-- R75, R405: under UNIFIED a word an STR stored is what the next fetch at its address reads; under SEPARATE no fetch
sees the store. -/
def Obligations.StoreIsSeenByFetchOnlyIfUnified : Prop :=
  ∀ (s t : State) (c : Cond) (p u w : Bool) (rd rn : Reg) (off : Offset) (base a : Word),
    Memory.wf s.mem = true → AddressComputed c s p u w rd rn off base a → exec (.str c p u w rd rn off) s = .next t →
    (s.cfg.codeMem = .unified → memAdmit s.cfg a .word .fetch = true → fetch (t.setX 15 a) = .ok (s.x rd)) ∧
    (s.cfg.codeMem = .separate → ∀ pc : Word, fetch (t.setX 15 pc) = fetch (s.setX 15 pc))

/-! The barrel shifter (41_barrel_shifter.md) -/

/-- R181: the 8-bit immediate rotated right by twice the rotate field; the carry is bit 31 of the result unless the
field is 0. -/
def Obligations.ImmediateOperandRotates : Prop :=
  ∀ (rot : BitVec 4) (imm8 : BitVec 8) (c : Bool),
    (immOperand rot imm8 c).value = (imm8.zeroExtend 32).rotateRight (2 * rot.toNat) ∧
    (immOperand rot imm8 c).carry = if rot = 0#4 then c else (immOperand rot imm8 c).value.getLsbD 31

/-- R182 to R185: a shift by the amount field, bit by bit, with the encodings of amount 0: no shift for LSL, shift by
32 for LSR and ASR, RRX for ROR. -/
def Obligations.ShiftByAmountField : Prop :=
  ∀ (v : Word) (amt : Nat) (c : Bool),
    (shiftImm .lsl v 0 c = ⟨v, c⟩ ∧ shiftImm .lsr v 0 c = ⟨0#32, v.getLsbD 31⟩) ∧
    ((∀ k < 32, (shiftImm .asr v 0 c).value.getLsbD k = v.getLsbD 31) ∧ (shiftImm .asr v 0 c).carry = v.getLsbD 31) ∧
    ((∀ k < 32, (shiftImm .ror v 0 c).value.getLsbD k = if k = 31 then c else v.getLsbD (k + 1)) ∧
      (shiftImm .ror v 0 c).carry = v.getLsbD 0) ∧
    (1 ≤ amt → amt ≤ 31 →
      (∀ k < 32, (shiftImm .lsl v amt c).value.getLsbD k = (decide (amt ≤ k) && v.getLsbD (k - amt)) ∧
        (shiftImm .lsr v amt c).value.getLsbD k = (decide (k + amt < 32) && v.getLsbD (k + amt)) ∧
        (shiftImm .asr v amt c).value.getLsbD k = (if k + amt < 32 then v.getLsbD (k + amt) else v.getLsbD 31) ∧
        (shiftImm .ror v amt c).value.getLsbD k = v.getLsbD ((k + amt) % 32)) ∧
      (shiftImm .lsl v amt c).carry = v.getLsbD (32 - amt) ∧ (shiftImm .lsr v amt c).carry = v.getLsbD (amt - 1) ∧
      (shiftImm .asr v amt c).carry = v.getLsbD (amt - 1) ∧ (shiftImm .ror v amt c).carry = v.getLsbD (amt - 1))

/-- R186 to R190: a shift by a register's low byte: 0 keeps value and carry for every type, 1 to 31 shift, 32 and
beyond have the results of the rules. -/
def Obligations.ShiftByRegisterAmount : Prop :=
  ∀ (v : Word) (n : Nat) (c : Bool),
    (∀ ty : ShiftType, shiftReg ty v 0 c = ⟨v, c⟩) ∧
    (∀ ty : ShiftType, 1 ≤ n → n ≤ 31 → shiftReg ty v n c = shiftImm ty v n c) ∧
    (shiftReg .lsl v 32 c = ⟨0#32, v.getLsbD 0⟩ ∧ shiftReg .lsr v 32 c = ⟨0#32, v.getLsbD 31⟩) ∧
    (33 ≤ n → shiftReg .lsl v n c = ⟨0#32, false⟩ ∧ shiftReg .lsr v n c = ⟨0#32, false⟩) ∧
    (32 ≤ n → (∀ k < 32, (shiftReg .asr v n c).value.getLsbD k = v.getLsbD 31) ∧
      (shiftReg .asr v n c).carry = v.getLsbD 31) ∧
    (1 ≤ n → n % 32 = 0 → shiftReg .ror v n c = ⟨v, v.getLsbD 31⟩) ∧
    (n % 32 ≠ 0 → (∀ k < 32, (shiftReg .ror v n c).value.getLsbD k = v.getLsbD ((k + n) % 32)) ∧
      (shiftReg .ror v n c).carry = v.getLsbD (n % 32 - 1))

/-- R34: what an instruction reads when a register is a data operand. -/
def Obligations.OperandReadOfEveryRegister : Prop :=
  ∀ (s : State) (r : Reg),
    (r ≠ 15 → readReg s r = .ok (s.x r)) ∧
    (s.cfg.pcRead = .plus8 → readReg s 15 = .ok (s.x 15 + 8#32)) ∧
    (s.cfg.pcRead = .unsupported → readReg s 15 = .error (.unsupported .pcOperand))

/-- R180: the three forms of operand-2 on the current registers and carry; a register amount is the low byte of Rs. -/
def Obligations.OperandTwoByForm : Prop :=
  ∀ s : State,
    (∀ rot imm8, operand2 s (.imm rot imm8) = .ok (immOperand rot imm8 s.cpsr.c)) ∧
    (∀ rm ty amt v, readReg s rm = .ok v → operand2 s (.shImm rm ty amt) = .ok (shiftImm ty v amt.toNat s.cpsr.c)) ∧
    (∀ rm ty amt r, readReg s rm = .error r → operand2 s (.shImm rm ty amt) = .error r) ∧
    (∀ rm ty rs, operand2 s (.shReg rm ty rs) = .ok (shiftReg ty (s.x rm) ((s.x rs).toNat % 256) s.cpsr.c))

/-! Data processing (42_data_processing.md, 43_shift_aliases.md) -/

/-- R220, R221, R232, R234: AND, EOR, ORR and BIC complete with their result in Rd and, with S = 1, N and Z from it,
C from the shifter, V kept. -/
def Obligations.LogicalInstructionsComplete : Prop :=
  ∀ (c : Cond) (sf : Bool) (rd rn : Reg) (op2 : Operand2) (s : State) (a : Word) (b : Shifted),
    OperandsRead c s (some rd) (some rn) op2 a b →
    (DestinationAllowed rd sf (a &&& b.value) → exec (.and c sf rd rn op2) s =
      .next (withFlags (afterWrite s rd (a &&& b.value)) sf (a &&& b.value) b.carry s.cpsr.v)) ∧
    (DestinationAllowed rd sf (a ^^^ b.value) → exec (.eor c sf rd rn op2) s =
      .next (withFlags (afterWrite s rd (a ^^^ b.value)) sf (a ^^^ b.value) b.carry s.cpsr.v)) ∧
    (DestinationAllowed rd sf (a ||| b.value) → exec (.orr c sf rd rn op2) s =
      .next (withFlags (afterWrite s rd (a ||| b.value)) sf (a ||| b.value) b.carry s.cpsr.v)) ∧
    (DestinationAllowed rd sf (a &&& ~~~b.value) → exec (.bic c sf rd rn op2) s =
      .next (withFlags (afterWrite s rd (a &&& ~~~b.value)) sf (a &&& ~~~b.value) b.carry s.cpsr.v))

/-- R233, R235: MOV and MVN complete with operand-2 or its complement in Rd; C from the shifter, V kept. -/
def Obligations.MovesComplete : Prop :=
  ∀ (c : Cond) (sf : Bool) (rd : Reg) (op2 : Operand2) (s : State) (b : Shifted),
    OperandsRead c s (some rd) none op2 0#32 b →
    (DestinationAllowed rd sf b.value → exec (.mov c sf rd op2) s =
      .next (withFlags (afterWrite s rd b.value) sf b.value b.carry s.cpsr.v)) ∧
    (DestinationAllowed rd sf (~~~b.value) → exec (.mvn c sf rd op2) s =
      .next (withFlags (afterWrite s rd (~~~b.value)) sf (~~~b.value) b.carry s.cpsr.v))

/-- R260, R262, R264, R266, R268: the shift mnemonics by immediate complete with the barrel shifter's value in Rd; the
written amount n is encoded as n mod 32, and RRX is rotate right with extend. -/
def Obligations.ShiftsByImmediateComplete : Prop :=
  ∀ (c : Cond) (sf : Bool) (rd rm : Reg) (n : Nat) (s : State) (v : Word),
    conditionPassed c s.cpsr = true → readReg s rm = .ok v →
    (n ≤ 31 → DestinationAllowed rd sf (shiftImm .lsl v n s.cpsr.c).value →
      exec (.lsl c sf rd rm (.imm n)) s =
        .next (withFlags (afterWrite s rd (shiftImm .lsl v n s.cpsr.c).value) sf (shiftImm .lsl v n s.cpsr.c).value
          (shiftImm .lsl v n s.cpsr.c).carry s.cpsr.v)) ∧
    (1 ≤ n → n ≤ 32 → DestinationAllowed rd sf (shiftImm .lsr v (n % 32) s.cpsr.c).value →
      exec (.lsr c sf rd rm (.imm n)) s =
        .next (withFlags (afterWrite s rd (shiftImm .lsr v (n % 32) s.cpsr.c).value) sf
          (shiftImm .lsr v (n % 32) s.cpsr.c).value (shiftImm .lsr v (n % 32) s.cpsr.c).carry s.cpsr.v)) ∧
    (1 ≤ n → n ≤ 32 → DestinationAllowed rd sf (shiftImm .asr v (n % 32) s.cpsr.c).value →
      exec (.asr c sf rd rm (.imm n)) s =
        .next (withFlags (afterWrite s rd (shiftImm .asr v (n % 32) s.cpsr.c).value) sf
          (shiftImm .asr v (n % 32) s.cpsr.c).value (shiftImm .asr v (n % 32) s.cpsr.c).carry s.cpsr.v)) ∧
    (1 ≤ n → n ≤ 31 → DestinationAllowed rd sf (shiftImm .ror v n s.cpsr.c).value →
      exec (.ror c sf rd rm (.imm n)) s =
        .next (withFlags (afterWrite s rd (shiftImm .ror v n s.cpsr.c).value) sf (shiftImm .ror v n s.cpsr.c).value
          (shiftImm .ror v n s.cpsr.c).carry s.cpsr.v)) ∧
    (DestinationAllowed rd sf (BitVec.ofBool s.cpsr.c ++ v.extractLsb' 1 31) →
      exec (.rrx c sf rd rm) s =
        .next (withFlags (afterWrite s rd (BitVec.ofBool s.cpsr.c ++ v.extractLsb' 1 31)) sf
          (BitVec.ofBool s.cpsr.c ++ v.extractLsb' 1 31) (v.getLsbD 0) s.cpsr.v))

/-- R261, R263, R265, R267: the shift mnemonics by register complete with the barrel shifter's value for the low byte
of Rs in Rd. -/
def Obligations.ShiftsByRegisterComplete : Prop :=
  ∀ (c : Cond) (sf : Bool) (rd rm rs : Reg) (s : State),
    conditionPassed c s.cpsr = true → rd ≠ 15 → rm ≠ 15 → rs ≠ 15 →
    (∀ r, r = shiftReg .lsl (s.x rm) ((s.x rs).toNat % 256) s.cpsr.c →
      exec (.lsl c sf rd rm (.reg rs)) s =
        .next (withFlags ((s.setX 15 (s.x 15 + 4#32)).setX rd r.value) sf r.value r.carry s.cpsr.v)) ∧
    (∀ r, r = shiftReg .lsr (s.x rm) ((s.x rs).toNat % 256) s.cpsr.c →
      exec (.lsr c sf rd rm (.reg rs)) s =
        .next (withFlags ((s.setX 15 (s.x 15 + 4#32)).setX rd r.value) sf r.value r.carry s.cpsr.v)) ∧
    (∀ r, r = shiftReg .asr (s.x rm) ((s.x rs).toNat % 256) s.cpsr.c →
      exec (.asr c sf rd rm (.reg rs)) s =
        .next (withFlags ((s.setX 15 (s.x 15 + 4#32)).setX rd r.value) sf r.value r.carry s.cpsr.v)) ∧
    (∀ r, r = shiftReg .ror (s.x rm) ((s.x rs).toNat % 256) s.cpsr.c →
      exec (.ror c sf rd rm (.reg rs)) s =
        .next (withFlags ((s.setX 15 (s.x 15 + 4#32)).setX rd r.value) sf r.value r.carry s.cpsr.v))

/-- 43_shift_aliases.md, R118: a shift mnemonic executes as the MOV it spells, and every instruction as its core form. -/
def Obligations.ShiftMnemonicsExecuteAsMov : Prop :=
  ∀ (i : Instr) (s : State), exec (canonicalInstr i) s = exec i s

/-- R222, R223, R224: ADD, SUB and RSB complete; C is the carry out of an addition and NOT borrow of a subtraction, V
signed overflow, both on the integers. -/
def Obligations.AddSubRsbComplete : Prop :=
  ∀ (c : Cond) (sf : Bool) (rd rn : Reg) (op2 : Operand2) (s : State) (a : Word) (b : Shifted),
    OperandsRead c s (some rd) (some rn) op2 a b →
    (DestinationAllowed rd sf (a + b.value) → exec (.add c sf rd rn op2) s =
      .next (withFlags (afterWrite s rd (a + b.value)) sf (a + b.value)
        (decide (2 ^ 32 ≤ a.toNat + b.value.toNat)) (outOfRange (a.toInt + b.value.toInt)))) ∧
    (DestinationAllowed rd sf (a - b.value) → exec (.sub c sf rd rn op2) s =
      .next (withFlags (afterWrite s rd (a - b.value)) sf (a - b.value)
        (decide (b.value.toNat ≤ a.toNat)) (outOfRange (a.toInt - b.value.toInt)))) ∧
    (DestinationAllowed rd sf (b.value - a) → exec (.rsb c sf rd rn op2) s =
      .next (withFlags (afterWrite s rd (b.value - a)) sf (b.value - a)
        (decide (a.toNat ≤ b.value.toNat)) (outOfRange (b.value.toInt - a.toInt))))

/-- R225, R226, R227: ADC, SBC and RSC complete, with carry-in C (a subtraction takes NOT C more). -/
def Obligations.CarryArithmeticCompletes : Prop :=
  ∀ (c : Cond) (sf : Bool) (rd rn : Reg) (op2 : Operand2) (s : State) (a : Word) (b : Shifted) (k : Nat),
    OperandsRead c s (some rd) (some rn) op2 a b → k = (if s.cpsr.c = true then 1 else 0) →
    (DestinationAllowed rd sf (a + b.value + BitVec.ofNat 32 k) → exec (.adc c sf rd rn op2) s =
      .next (withFlags (afterWrite s rd (a + b.value + BitVec.ofNat 32 k)) sf (a + b.value + BitVec.ofNat 32 k)
        (decide (2 ^ 32 ≤ a.toNat + b.value.toNat + k)) (outOfRange (a.toInt + b.value.toInt + k)))) ∧
    (DestinationAllowed rd sf (a - b.value - BitVec.ofNat 32 (1 - k)) → exec (.sbc c sf rd rn op2) s =
      .next (withFlags (afterWrite s rd (a - b.value - BitVec.ofNat 32 (1 - k))) sf
        (a - b.value - BitVec.ofNat 32 (1 - k))
        (decide (b.value.toNat + (1 - k) ≤ a.toNat)) (outOfRange (a.toInt - b.value.toInt - (1 - k : Int))))) ∧
    (DestinationAllowed rd sf (b.value - a - BitVec.ofNat 32 (1 - k)) → exec (.rsc c sf rd rn op2) s =
      .next (withFlags (afterWrite s rd (b.value - a - BitVec.ofNat 32 (1 - k))) sf
        (b.value - a - BitVec.ofNat 32 (1 - k))
        (decide (a.toNat + (1 - k) ≤ b.value.toNat)) (outOfRange (b.value.toInt - a.toInt - (1 - k : Int)))))

/-- R213: AddWithCarry on the integers, and the carry and overflow of a subtraction done with it. -/
def Obligations.AddWithCarryOnIntegers : Prop :=
  ∀ (x y : Word) (cin : Bool),
    (addWithCarry x y cin).result.toNat = (x.toNat + y.toNat + cin.toNat) % 2 ^ 32 ∧
    ((addWithCarry x y cin).carry = true ↔ 2 ^ 32 ≤ x.toNat + y.toNat + cin.toNat) ∧
    ((addWithCarry x y cin).overflow = true ↔
      x.getLsbD 31 = y.getLsbD 31 ∧ (addWithCarry x y cin).result.getLsbD 31 ≠ x.getLsbD 31) ∧
    (addWithCarry x (~~~y) true).result = x - y ∧
    ((addWithCarry x (~~~y) true).carry = true ↔ y.toNat ≤ x.toNat) ∧
    ((addWithCarry x (~~~y) true).overflow = true ↔
      x.toInt - y.toInt < -2 ^ 31 ∨ 2 ^ 31 - 1 < x.toInt - y.toInt)

/-- R228, R229: TST and TEQ complete, writing only the flags and the advanced PC: N and Z from AND or EOR, C from the
shifter, V kept. -/
def Obligations.TestsComplete : Prop :=
  ∀ (c : Cond) (rn : Reg) (op2 : Operand2) (s : State) (a : Word) (b : Shifted),
    OperandsRead c s none (some rn) op2 a b →
    exec (.tst c rn op2) s =
      .next (withFlags (s.setX 15 (s.x 15 + 4#32)) true (a &&& b.value) b.carry s.cpsr.v) ∧
    exec (.teq c rn op2) s =
      .next (withFlags (s.setX 15 (s.x 15 + 4#32)) true (a ^^^ b.value) b.carry s.cpsr.v)

/-- R230, R231: CMP and CMN complete, writing only the flags and the advanced PC: those of SUB and ADD. -/
def Obligations.ComparesComplete : Prop :=
  ∀ (c : Cond) (rn : Reg) (op2 : Operand2) (s : State) (a : Word) (b : Shifted),
    OperandsRead c s none (some rn) op2 a b →
    exec (.cmp c rn op2) s =
      .next (withFlags (s.setX 15 (s.x 15 + 4#32)) true (a - b.value)
        (decide (b.value.toNat ≤ a.toNat)) (outOfRange (a.toInt - b.value.toInt))) ∧
    exec (.cmn c rn op2) s =
      .next (withFlags (s.setX 15 (s.x 15 + 4#32)) true (a + b.value)
        (decide (2 ^ 32 ≤ a.toNat + b.value.toNat)) (outOfRange (a.toInt + b.value.toInt)))

/-- R230's corner case with R96: after CMP the conditions compare the operands, unsigned and signed. -/
def Obligations.ConditionsAfterCmpCompare : Prop :=
  ∀ (c : Cond) (rn : Reg) (op2 : Operand2) (s t : State) (a : Word) (b : Shifted),
    OperandsRead c s none (some rn) op2 a b → exec (.cmp c rn op2) s = .next t →
    (conditionPassed .eq t.cpsr = true ↔ a = b.value) ∧
    (conditionPassed .hi t.cpsr = true ↔ b.value.toNat < a.toNat) ∧
    (conditionPassed .cs t.cpsr = true ↔ b.value.toNat ≤ a.toNat) ∧
    (conditionPassed .ge t.cpsr = true ↔ b.value.toInt ≤ a.toInt) ∧
    (conditionPassed .gt t.cpsr = true ↔ b.value.toInt < a.toInt)

/-- R191, R212, R214: the faults of a data-processing instruction on its operands, in their order: R15 in a register
shift, then R15 read as Rm or Rn under `PC_READ = UNSUPPORTED`, then a write of R15 with S = 1 (R211). -/
def Obligations.DataProcessingFaultsInOrder : Prop :=
  ∀ (i : Instr) (d : DataOperands) (s : State), dataOperands i = some d → conditionPassed i.cond s.cpsr = true →
    (∀ rm ty rs, d.op2 = .shReg rm ty rs → rm = 15 ∨ rs = 15 ∨ d.rd = some 15 ∨ d.rn = some 15 →
      exec i s = .fault (.unsupportedEncoding .pcInRegisterShift none s.pc)) ∧
    (checkRegisterShift d.rd d.rn d.op2 = .ok () → s.cfg.pcRead = .unsupported →
      (d.rn = some 15 ∨ ∃ ty amt, d.op2 = .shImm 15 ty amt) →
      exec i s = .fault (.unsupportedEncoding .pcOperand none s.pc)) ∧
    (∀ a b, checkRegisterShift d.rd d.rn d.op2 = .ok () → operand2 s d.op2 = .ok b → readRn s d.rn = .ok a →
      d.rd = some 15 → d.sf = true → exec i s = .fault (.unsupportedEncoding .pcWriteWithS none s.pc))

/-- R211: a data-processing write of R15 with S = 0 is a jump to the result, with no advance, if the result is word
aligned, and UnsupportedEncoding(PcWriteMisaligned) if not. -/
def Obligations.DataProcessingWriteOfPcJumps : Prop :=
  ∀ (c : Cond) (rn : Reg) (op2 : Operand2) (s : State) (a : Word) (b : Shifted) (k : Nat),
    OperandsRead c s (some 15) (some rn) op2 a b → k = (if s.cpsr.c = true then 1 else 0) →
    JumpsTo s (.and c false 15 rn op2) (a &&& b.value) ∧ JumpsTo s (.eor c false 15 rn op2) (a ^^^ b.value) ∧
    JumpsTo s (.sub c false 15 rn op2) (a - b.value) ∧ JumpsTo s (.rsb c false 15 rn op2) (b.value - a) ∧
    JumpsTo s (.add c false 15 rn op2) (a + b.value) ∧
    JumpsTo s (.adc c false 15 rn op2) (a + b.value + BitVec.ofNat 32 k) ∧
    JumpsTo s (.sbc c false 15 rn op2) (a - b.value - BitVec.ofNat 32 (1 - k)) ∧
    JumpsTo s (.rsc c false 15 rn op2) (b.value - a - BitVec.ofNat 32 (1 - k)) ∧
    JumpsTo s (.orr c false 15 rn op2) (a ||| b.value) ∧ JumpsTo s (.bic c false 15 rn op2) (a &&& ~~~b.value) ∧
    JumpsTo s (.mov c false 15 op2) b.value ∧ JumpsTo s (.mvn c false 15 op2) (~~~b.value)

/-! Branches (44_branch.md) -/

/-- R280, R281, R283: B and BL complete; the target is the branch's address plus 8 plus four times the signed imm24,
modulo 2^32; BL also writes the address of the next instruction to R14. -/
def Obligations.BranchesComplete : Prop :=
  ∀ (c : Cond) (imm24 : BitVec 24) (s : State) (target : Word), conditionPassed c s.cpsr = true →
    target = BitVec.ofInt 32 (s.pc.toNat + 8 + 4 * imm24.toInt) →
    exec (.b c imm24) s = .next (s.setX 15 target) ∧
    exec (.bl c imm24) s = .next ((s.setX 14 (s.x 15 + 4#32)).setX 15 target)

/-- R282: from a word-aligned PC a branch target is word aligned and its distance from x[15] + 8 is a multiple of 4 in
-2^25 .. 2^25 - 4, modulo 2^32. -/
def Obligations.BranchTargetIsAlignedAndInRange : Prop :=
  ∀ (i : Instr) (c : Cond) (imm24 : BitVec 24) (s t : State), i = .b c imm24 ∨ i = .bl c imm24 →
    conditionPassed c s.cpsr = true → exec i s = .next t →
    (wordAligned s.pc = true → wordAligned t.pc = true) ∧
    ∃ d : Int, -2 ^ 25 ≤ d ∧ d ≤ 2 ^ 25 - 4 ∧ d % 4 = 0 ∧ t.pc = s.pc + 8#32 + BitVec.ofInt 32 d

/-! Loads and stores (45_load_store.md) -/

/-- R300: the offset of a load or store: the zero-extended imm12, or Rm shifted by the amount field. -/
def Obligations.LoadStoreOffsetByForm : Prop :=
  ∀ s : State,
    (∀ imm12, (loadStoreOffset s (.imm imm12)).toNat = imm12.toNat) ∧
    (∀ rm ty amt, loadStoreOffset s (.reg rm ty amt) = (shiftImm ty (s.x rm) amt.toNat s.cpsr.c).value)

/-- R310, R312: LDR and LDRB complete at an admitted address (for LDR an aligned one): the little-endian word, or the
zero-extended byte, in Rd, and the PC advanced. -/
def Obligations.LoadsComplete : Prop :=
  ∀ (c : Cond) (p u w : Bool) (rd rn : Reg) (off : Offset) (s : State) (base a : Word),
    AddressComputed c s p u w rd rn off base a →
    (wordAligned a = true → memAdmit s.cfg a .word .load = true →
      exec (.ldr c p u w rd rn off) s = .next ((s.setX 15 (s.x 15 + 4#32)).setX rd
        (s.byteAt (a + 3#32) ++ s.byteAt (a + 2#32) ++ s.byteAt (a + 1#32) ++ s.byteAt a))) ∧
    (memAdmit s.cfg a .byte .load = true →
      exec (.ldrb c p u w rd rn off) s = .next ((s.setX 15 (s.x 15 + 4#32)).setX rd (0#24 ++ s.byteAt a)))

/-- R311, R313: STR and STRB complete at an admitted address (for STR an aligned one): the four bytes of Rd, or its
bits 7:0, are written, no other byte changes, and every other part of the state is as before but for the advanced PC.
The premise is the invariant's memory form. -/
def Obligations.StoresComplete : Prop :=
  ∀ (c : Cond) (p u w : Bool) (rd rn : Reg) (off : Offset) (s : State) (base a : Word), Memory.wf s.mem = true →
    AddressComputed c s p u w rd rn off base a →
    (wordAligned a = true → memAdmit s.cfg a .word .store = true →
      ∃ m, exec (.str c p u w rd rn off) s = .next { s.setX 15 (s.x 15 + 4#32) with mem := m } ∧
        ∀ b : Word, readCell m b.toNat =
          if (b - a).toNat < 4 then (s.x rd).extractLsb' (8 * (b - a).toNat) 8 else s.byteAt b) ∧
    (memAdmit s.cfg a .byte .store = true →
      ∃ m, exec (.strb c p u w rd rn off) s = .next { s.setX 15 (s.x 15 + 4#32) with mem := m } ∧
        ∀ b : Word, readCell m b.toNat = if b = a then (s.x rd).extractLsb' 0 8 else s.byteAt b)

/-- R301, R302, R303, R65, R66: the faults of a load or store, in their order: the indexing mode, R15 as Rd or Rm, R15
as base under `PC_READ = UNSUPPORTED`, a misaligned word address, a rejected access. -/
def Obligations.LoadsAndStoresFaultInOrder : Prop :=
  ∀ (i : Instr) (c : Cond) (p u w : Bool) (rd rn : Reg) (off : Offset) (s : State) (width : Width) (kind : AccessKind),
    (i = .ldr c p u w rd rn off ∧ width = .word ∧ kind = .load) ∨
      (i = .str c p u w rd rn off ∧ width = .word ∧ kind = .store) ∨
      (i = .ldrb c p u w rd rn off ∧ width = .byte ∧ kind = .load) ∨
      (i = .strb c p u w rd rn off ∧ width = .byte ∧ kind = .store) →
    conditionPassed c s.cpsr = true →
    (p = false ∨ w = true → exec i s = .fault (.unsupportedEncoding .indexingMode none s.pc)) ∧
    (p = true → w = false → rd = 15 ∨ offsetNamesPc off = true →
      exec i s = .fault (.unsupportedEncoding .pcLoadStore none s.pc)) ∧
    (p = true → w = false → rd ≠ 15 → offsetNamesPc off = false → rn = 15 → s.cfg.pcRead = .unsupported →
      exec i s = .fault (.unsupportedEncoding .pcOperand none s.pc)) ∧
    (∀ base a, AddressComputed c s p u w rd rn off base a → width = .word → wordAligned a = false →
      exec i s = .fault (.memoryFault .misaligned none s.pc a)) ∧
    (∀ base a, AddressComputed c s p u w rd rn off base a → (width = .word → wordAligned a = true) →
      memAdmit s.cfg a width kind = false → exec i s = .fault (.memoryFault .rejected none s.pc a))

/-! Multiplies (46_multiply.md) -/

/-- R331, R332, R333: MUL and MLA complete with the product, or product plus accumulator, modulo 2^32 in Rd; with
S = 0 no flag changes; with S = 1 N and Z are the result's, and C and V are two drawn bits, of which nothing is said,
under `MULS_CV = DRAW`, and kept under `UNCHANGED`. -/
def Obligations.MultipliesComplete : Prop :=
  ∀ (c : Cond) (rd rn rs rm : Reg) (s : State),
    conditionPassed c s.cpsr = true → rd ≠ 15 → rs ≠ 15 → rm ≠ 15 →
    MultipliesTo s rd (BitVec.ofNat 32 ((s.x rm).toNat * (s.x rs).toNat))
      (.mul c false rd rs rm) (.mul c true rd rs rm) ∧
    (rn ≠ 15 → MultipliesTo s rd (BitVec.ofNat 32 ((s.x rm).toNat * (s.x rs).toNat + (s.x rn).toNat))
      (.mla c false rd rn rs rm) (.mla c true rd rn rs rm))

/-- R330: R15 as Rd, Rm or Rs of a multiply, or as Rn of an MLA, is refused by fault, whatever `PC_READ` is. -/
def Obligations.MultiplyOfPcFaults : Prop :=
  ∀ (c : Cond) (sf : Bool) (rd rn rs rm : Reg) (s : State), conditionPassed c s.cpsr = true →
    (rd = 15 ∨ rm = 15 ∨ rs = 15 → exec (.mul c sf rd rs rm) s = .fault (.unsupportedEncoding .pcInMultiply none s.pc)) ∧
    (rd = 15 ∨ rm = 15 ∨ rs = 15 ∨ rn = 15 →
      exec (.mla c sf rd rn rs rm) s = .fault (.unsupportedEncoding .pcInMultiply none s.pc))

/-! Software interrupt (47_swi.md) -/

/-- R350: SWI commits the advanced PC and nothing else, and its outcome is the trap with the zero-extended imm24. -/
def Obligations.SwiTraps : Prop :=
  ∀ (c : Cond) (imm24 : BitVec 24) (s : State), conditionPassed c s.cpsr = true →
    exec (.swi c imm24) s = .next { s.setX 15 (s.x 15 + 4#32) with trap := some (0#8 ++ imm24) }

/-! Frames -/

/-- R33, R147, R148, R214: what AND, EOR, SUB, RSB, ADD, ADC, SBC, RSC, ORR, MOV, BIC, MVN, the shift mnemonics LSL,
LSR, ASR, ROR, RRX and the comparisons TST, TEQ, CMP, CMN leave unchanged: every register but Rd and the PC, with
S = 0 every flag, for the logical class V, bits 27:0 of the CPSR, every byte of memory, the parameters, the outcome
tag and the drawn bits. -/
def Obligations.DataProcessingFrame : Prop :=
  ∀ (i : Instr) (d : DataOperands) (s t : State), dataOperands i = some d → exec i s = .next t →
    (∀ r : Reg, r ≠ 15 → d.rd ≠ some r → t.x r = s.x r) ∧ (d.sf = false → t.cpsr = s.cpsr) ∧
    (isLogical i = true → t.cpsr.v = s.cpsr.v) ∧ t.cpsr.low = s.cpsr.low ∧ SameOutside s t

/-- R157: after TST, TEQ, CMP or CMN only the flags and x[15] have changed, and x[15] is the advanced PC. -/
def Obligations.ComparisonsChangeNoRegister : Prop :=
  ∀ (i : Instr) (c : Cond) (rn : Reg) (op2 : Operand2) (s t : State),
    i = .tst c rn op2 ∨ i = .teq c rn op2 ∨ i = .cmp c rn op2 ∨ i = .cmn c rn op2 → exec i s = .next t →
    SameRegisters s t [] ∧ t.pc = s.pc + 4#32 ∧ t.cpsr.low = s.cpsr.low ∧ t.mem = s.mem ∧ SameOutside s t

/-- R280, R281: what B and BL leave unchanged: every register but the PC and, for BL, R14; all of the CPSR; memory. -/
def Obligations.BranchFrame : Prop :=
  ∀ (c : Cond) (imm24 : BitVec 24) (s t : State),
    (exec (.b c imm24) s = .next t → SameRegisters s t [] ∧ t.cpsr = s.cpsr ∧ SameOutside s t) ∧
    (exec (.bl c imm24) s = .next t → SameRegisters s t [14] ∧ t.cpsr = s.cpsr ∧ SameOutside s t)

/-- R310, R312: what LDR and LDRB leave unchanged: every register but Rd and the PC (the base is not written back), all
of the CPSR, every byte of memory. -/
def Obligations.LoadFrame : Prop :=
  ∀ (i : Instr) (c : Cond) (p u w : Bool) (rd rn : Reg) (off : Offset) (s t : State),
    i = .ldr c p u w rd rn off ∨ i = .ldrb c p u w rd rn off → exec i s = .next t →
    SameRegisters s t [rd] ∧ t.cpsr = s.cpsr ∧ SameOutside s t

/-- R311, R313: what STR and STRB leave unchanged: every register but the PC, all of the CPSR, and every byte outside
the stored ones, at the address their meanings compute. -/
def Obligations.StoreFrame : Prop :=
  ∀ (c : Cond) (p u w : Bool) (rd rn : Reg) (off : Offset) (s t : State),
    (exec (.str c p u w rd rn off) s = .next t →
      SameRegisters s t [] ∧ t.pc = s.pc + 4#32 ∧ t.cpsr = s.cpsr ∧ t.cfg = s.cfg ∧ t.trap = s.trap ∧
        t.draws = s.draws ∧
        ∀ a, loadStoreAddress s p u w rd rn off = .ok a → ∀ b : Word, 4 ≤ (b - a).toNat → t.byteAt b = s.byteAt b) ∧
    (exec (.strb c p u w rd rn off) s = .next t →
      SameRegisters s t [] ∧ t.pc = s.pc + 4#32 ∧ t.cpsr = s.cpsr ∧ t.cfg = s.cfg ∧ t.trap = s.trap ∧
        t.draws = s.draws ∧
        ∀ a, loadStoreAddress s p u w rd rn off = .ok a → ∀ b : Word, b ≠ a → t.byteAt b = s.byteAt b)

/-- R331 to R333: what MUL and MLA leave unchanged: every register but Rd and the PC, with S = 0 all of the CPSR and the
count of drawn bits, bits 27:0 of the CPSR, every byte of memory, the parameters and the outcome tag. -/
def Obligations.MultiplyFrame : Prop :=
  ∀ (i : Instr) (c : Cond) (sf : Bool) (rd rn rs rm : Reg) (s t : State),
    i = .mul c sf rd rs rm ∨ i = .mla c sf rd rn rs rm → exec i s = .next t →
    SameRegisters s t [rd] ∧ t.pc = s.pc + 4#32 ∧ (sf = false → t.cpsr = s.cpsr ∧ t.draws = s.draws) ∧
      t.cpsr.low = s.cpsr.low ∧ (∀ a, t.byteAt a = s.byteAt a) ∧ t.cfg = s.cfg ∧ t.trap = s.trap

/-- R350: what SWI leaves unchanged: every register but the PC, which advances; all of the CPSR; every byte of memory;
the parameters and the count of drawn bits. -/
def Obligations.SwiFrame : Prop :=
  ∀ (c : Cond) (imm24 : BitVec 24) (s t : State), exec (.swi c imm24) s = .next t →
    SameRegisters s t [] ∧ t.pc = s.pc + 4#32 ∧ t.cpsr = s.cpsr ∧ (∀ a, t.byteAt a = s.byteAt a) ∧ t.cfg = s.cfg ∧
      t.draws = s.draws
end

