-- ==== Sys2Proof/Laws/Decode.lean ====
section
/-!
SUPPORT. Fields of an encoded word, and the code tables read back.
-/

namespace Sys2Proof.Laws

open Sys2Proof Sys2Proof.Machine

/-- A field of an appended word that lies wholly in its upper part. -/
theorem fieldOf_append_high {m n len lo : Nat} (x : BitVec m) (y : BitVec n) :
    (x ++ y).extractLsb' (lo + n) len = x.extractLsb' lo len := by
  apply BitVec.eq_of_getLsbD_eq
  intro i hi
  simp [hi, BitVec.getLsbD_append, show ¬ lo + n + i < n by omega, show lo + n + i - n = lo + i by omega]

/-- A field of an appended word that lies wholly in its lower part. -/
theorem fieldOf_append_low {m n len lo : Nat} (x : BitVec m) (y : BitVec n) (h : lo + len ≤ n) :
    (x ++ y).extractLsb' lo len = y.extractLsb' lo len := by
  apply BitVec.eq_of_getLsbD_eq
  intro i hi
  simp [hi, BitVec.getLsbD_append, show lo + i < n by omega]

/-- A register's field names the register. -/
@[simp] theorem regOfBits_regBits (r : Reg) : regOfBits (regBits r) = r := rfl

/-- A register field is the field of the register it names. -/
@[simp] theorem regBits_regOfBits (b : BitVec 4) : regBits (regOfBits b) = b := rfl

/-- A condition's code names the condition (R96). -/
@[simp] theorem condOfBits_condBits (c : Cond) : condOfBits (condBits c) = some c := by cases c <;> rfl

/-- A shift type's code names the type (R95). -/
@[simp] theorem shiftOfBits_shiftBits (t : ShiftType) : shiftOfBits (shiftBits t) = t := by cases t <;> rfl

/-- A shift field is the code of the type it names (R95). -/
@[simp] theorem shiftBits_shiftOfBits : ∀ b : BitVec 2, shiftBits (shiftOfBits b) = b := by decide

/-- Only the code of a condition names it (R96). -/
theorem condBits_of_condOfBits : ∀ b : BitVec 4, ∀ c ∈ condOfBits b, condBits c = b := by decide

/-- The condition field of a data-processing word (R99). -/
theorem cond_encodeDataProcessing (lay : RegLayout) (c : Cond) (opcode : BitVec 4) (sf : Bool) (rd rn : BitVec 4)
    (op2 : Operand2) : condOfBits (fieldOf (encodeDataProcessing lay c opcode sf rd rn op2) 28 4) = some c := by
  have h : fieldOf (encodeDataProcessing lay c opcode sf rd rn op2) 28 4 = (condBits c).extractLsb' 0 4 := by
    unfold fieldOf encodeDataProcessing
    exact (fieldOf_append_high (lo := 16) _ _).trans <| (fieldOf_append_high (lo := 8) _ _).trans <|
      (fieldOf_append_high (lo := 7) _ _).trans <| (fieldOf_append_high (lo := 3) _ _).trans <|
      (fieldOf_append_high (lo := 2) _ _).trans (fieldOf_append_high (lo := 0) _ _)
  rw [h, BitVec.extractLsb'_eq_self, condOfBits_condBits]

/-- The condition field of a load or store word (R101). -/
theorem cond_encodeLoadStore (lay : RegLayout) (c : Cond) (p u b w l : Bool) (rd rn : Reg) (off : Offset) :
    condOfBits (fieldOf (encodeLoadStore lay c p u b w l rd rn off) 28 4) = some c := by
  have h : fieldOf (encodeLoadStore lay c p u b w l rd rn off) 28 4 = (condBits c).extractLsb' 0 4 := by
    unfold fieldOf encodeLoadStore
    exact (fieldOf_append_high (lo := 16) _ _).trans <| (fieldOf_append_high (lo := 8) _ _).trans <|
      (fieldOf_append_high (lo := 7) _ _).trans <| (fieldOf_append_high (lo := 6) _ _).trans <|
      (fieldOf_append_high (lo := 5) _ _).trans <| (fieldOf_append_high (lo := 4) _ _).trans <|
      (fieldOf_append_high (lo := 3) _ _).trans <| (fieldOf_append_high (lo := 2) _ _).trans
      (fieldOf_append_high (lo := 0) _ _)
  rw [h, BitVec.extractLsb'_eq_self, condOfBits_condBits]

/-- The condition field of a branch word (R100). -/
theorem cond_encodeBranch (c : Cond) (link : Bool) (imm24 : BitVec 24) :
    condOfBits (fieldOf (encodeBranch c link imm24) 28 4) = some c := by
  have h : fieldOf (encodeBranch c link imm24) 28 4 = (condBits c).extractLsb' 0 4 := by
    unfold fieldOf encodeBranch
    exact (fieldOf_append_high (lo := 4) _ _).trans <| (fieldOf_append_high (lo := 3) _ _).trans
      (fieldOf_append_high (lo := 0) _ _)
  rw [h, BitVec.extractLsb'_eq_self, condOfBits_condBits]

/-- The condition field of a multiply word (R103). -/
theorem cond_encodeMultiply (c : Cond) (acc sf : Bool) (rd rn rs rm : BitVec 4) :
    condOfBits (fieldOf (encodeMultiply c acc sf rd rn rs rm) 28 4) = some c := by
  have h : fieldOf (encodeMultiply c acc sf rd rn rs rm) 28 4 = (condBits c).extractLsb' 0 4 := by
    unfold fieldOf encodeMultiply
    exact (fieldOf_append_high (lo := 24) _ _).trans <| (fieldOf_append_high (lo := 20) _ _).trans <|
      (fieldOf_append_high (lo := 16) _ _).trans <| (fieldOf_append_high (lo := 12) _ _).trans <|
      (fieldOf_append_high (lo := 8) _ _).trans <| (fieldOf_append_high (lo := 7) _ _).trans <|
      (fieldOf_append_high (lo := 6) _ _).trans (fieldOf_append_high (lo := 0) _ _)
  rw [h, BitVec.extractLsb'_eq_self, condOfBits_condBits]

/-- The condition field of an SWI word (R104). -/
theorem cond_encodeSwi (c : Cond) (imm24 : BitVec 24) : condOfBits (fieldOf (encodeSwi c imm24) 28 4) = some c := by
  have h : fieldOf (encodeSwi c imm24) 28 4 = (condBits c).extractLsb' 0 4 := by
    unfold fieldOf encodeSwi
    exact (fieldOf_append_high (lo := 4) _ _).trans (fieldOf_append_high (lo := 0) _ _)
  rw [h, BitVec.extractLsb'_eq_self, condOfBits_condBits]

end Sys2Proof.Laws
end

