-- ==== Sys2Proof/Laws/State.lean ====
section
/-!
SUPPORT. One lemma per field per named update of the state, and what a register write does to the registers.
-/

namespace Sys2Proof.Laws

open Sys2Proof Sys2Proof.Machine

@[simp] theorem setX_cpsr (s : State) (r : Reg) (v : Word) : (s.setX r v).cpsr = s.cpsr := rfl
@[simp] theorem setX_mem (s : State) (r : Reg) (v : Word) : (s.setX r v).mem = s.mem := rfl
@[simp] theorem setX_trap (s : State) (r : Reg) (v : Word) : (s.setX r v).trap = s.trap := rfl
@[simp] theorem setX_draws (s : State) (r : Reg) (v : Word) : (s.setX r v).draws = s.draws := rfl
@[simp] theorem setX_cfg (s : State) (r : Reg) (v : Word) : (s.setX r v).cfg = s.cfg := rfl
@[simp] theorem setX_byteAt (s : State) (r : Reg) (v : Word) (q : Word) : (s.setX r v).byteAt q = s.byteAt q := rfl
@[simp] theorem setPc_cpsr (s : State) (v : Word) : (s.setPc v).cpsr = s.cpsr := rfl
@[simp] theorem setPc_mem (s : State) (v : Word) : (s.setPc v).mem = s.mem := rfl
@[simp] theorem setPc_trap (s : State) (v : Word) : (s.setPc v).trap = s.trap := rfl
@[simp] theorem setPc_draws (s : State) (v : Word) : (s.setPc v).draws = s.draws := rfl
@[simp] theorem setPc_cfg (s : State) (v : Word) : (s.setPc v).cfg = s.cfg := rfl
@[simp] theorem setPc_byteAt (s : State) (v : Word) (q : Word) : (s.setPc v).byteAt q = s.byteAt q := rfl
@[simp] theorem advance_cpsr (s : State) : (s.advance).cpsr = s.cpsr := rfl
@[simp] theorem advance_mem (s : State) : (s.advance).mem = s.mem := rfl
@[simp] theorem advance_trap (s : State) : (s.advance).trap = s.trap := rfl
@[simp] theorem advance_draws (s : State) : (s.advance).draws = s.draws := rfl
@[simp] theorem advance_cfg (s : State) : (s.advance).cfg = s.cfg := rfl
@[simp] theorem advance_byteAt (s : State) (q : Word) : (s.advance).byteAt q = s.byteAt q := rfl
@[simp] theorem setByte_regs (s : State) (a : Word) (b : Byte) : (s.setByte a b).regs = s.regs := rfl
@[simp] theorem setByte_cpsr (s : State) (a : Word) (b : Byte) : (s.setByte a b).cpsr = s.cpsr := rfl
@[simp] theorem setByte_trap (s : State) (a : Word) (b : Byte) : (s.setByte a b).trap = s.trap := rfl
@[simp] theorem setByte_draws (s : State) (a : Word) (b : Byte) : (s.setByte a b).draws = s.draws := rfl
@[simp] theorem setByte_cfg (s : State) (a : Word) (b : Byte) : (s.setByte a b).cfg = s.cfg := rfl
@[simp] theorem setByte_x (s : State) (a : Word) (b : Byte) (q : Reg) : (s.setByte a b).x q = s.x q := rfl
@[simp] theorem setByte_pc (s : State) (a : Word) (b : Byte) : (s.setByte a b).pc = s.pc := rfl
@[simp] theorem setWord_regs (s : State) (a v : Word) : (s.setWord a v).regs = s.regs := rfl
@[simp] theorem setWord_cpsr (s : State) (a v : Word) : (s.setWord a v).cpsr = s.cpsr := rfl
@[simp] theorem setWord_trap (s : State) (a v : Word) : (s.setWord a v).trap = s.trap := rfl
@[simp] theorem setWord_draws (s : State) (a v : Word) : (s.setWord a v).draws = s.draws := rfl
@[simp] theorem setWord_cfg (s : State) (a v : Word) : (s.setWord a v).cfg = s.cfg := rfl
@[simp] theorem setWord_x (s : State) (a v : Word) (q : Reg) : (s.setWord a v).x q = s.x q := rfl
@[simp] theorem setWord_pc (s : State) (a v : Word) : (s.setWord a v).pc = s.pc := rfl
@[simp] theorem setFlags_regs (s : State) (w : Word) (c v : Bool) : (s.setFlags w c v).regs = s.regs := rfl
@[simp] theorem setFlags_mem (s : State) (w : Word) (c v : Bool) : (s.setFlags w c v).mem = s.mem := rfl
@[simp] theorem setFlags_trap (s : State) (w : Word) (c v : Bool) : (s.setFlags w c v).trap = s.trap := rfl
@[simp] theorem setFlags_draws (s : State) (w : Word) (c v : Bool) : (s.setFlags w c v).draws = s.draws := rfl
@[simp] theorem setFlags_cfg (s : State) (w : Word) (c v : Bool) : (s.setFlags w c v).cfg = s.cfg := rfl
@[simp] theorem setFlags_x (s : State) (w : Word) (c v : Bool) (q : Reg) : (s.setFlags w c v).x q = s.x q := rfl
@[simp] theorem setFlags_pc (s : State) (w : Word) (c v : Bool) : (s.setFlags w c v).pc = s.pc := rfl
@[simp] theorem setFlags_byteAt (s : State) (w : Word) (c v : Bool) (q : Word) : (s.setFlags w c v).byteAt q = s.byteAt q := rfl
@[simp] theorem takeTrap_cpsr (s : State) (k : Word) : (s.takeTrap k).cpsr = s.cpsr := rfl
@[simp] theorem takeTrap_mem (s : State) (k : Word) : (s.takeTrap k).mem = s.mem := rfl
@[simp] theorem takeTrap_draws (s : State) (k : Word) : (s.takeTrap k).draws = s.draws := rfl
@[simp] theorem takeTrap_cfg (s : State) (k : Word) : (s.takeTrap k).cfg = s.cfg := rfl
@[simp] theorem takeTrap_byteAt (s : State) (k : Word) (q : Word) : (s.takeTrap k).byteAt q = s.byteAt q := rfl
@[simp] theorem beginStep_regs (s : State) : (s.beginStep).regs = s.regs := rfl
@[simp] theorem beginStep_cpsr (s : State) : (s.beginStep).cpsr = s.cpsr := rfl
@[simp] theorem beginStep_mem (s : State) : (s.beginStep).mem = s.mem := rfl
@[simp] theorem beginStep_draws (s : State) : (s.beginStep).draws = s.draws := rfl
@[simp] theorem beginStep_cfg (s : State) : (s.beginStep).cfg = s.cfg := rfl
@[simp] theorem beginStep_x (s : State) (q : Reg) : (s.beginStep).x q = s.x q := rfl
@[simp] theorem beginStep_pc (s : State) : (s.beginStep).pc = s.pc := rfl
@[simp] theorem beginStep_byteAt (s : State) (q : Word) : (s.beginStep).byteAt q = s.byteAt q := rfl
@[simp] theorem withCpsrLow_regs (s : State) (l : BitVec 28) : (s.withCpsrLow l).regs = s.regs := rfl
@[simp] theorem withCpsrLow_mem (s : State) (l : BitVec 28) : (s.withCpsrLow l).mem = s.mem := rfl
@[simp] theorem withCpsrLow_trap (s : State) (l : BitVec 28) : (s.withCpsrLow l).trap = s.trap := rfl
@[simp] theorem withCpsrLow_draws (s : State) (l : BitVec 28) : (s.withCpsrLow l).draws = s.draws := rfl
@[simp] theorem withCpsrLow_cfg (s : State) (l : BitVec 28) : (s.withCpsrLow l).cfg = s.cfg := rfl
@[simp] theorem withCpsrLow_x (s : State) (l : BitVec 28) (q : Reg) : (s.withCpsrLow l).x q = s.x q := rfl
@[simp] theorem withCpsrLow_pc (s : State) (l : BitVec 28) : (s.withCpsrLow l).pc = s.pc := rfl
@[simp] theorem withCpsrLow_byteAt (s : State) (l : BitVec 28) (q : Word) : (s.withCpsrLow l).byteAt q = s.byteAt q := rfl
@[simp] theorem takeTrap_trap (s : State) (k : Word) : (s.takeTrap k).trap = some k := rfl
@[simp] theorem beginStep_trap (s : State) : s.beginStep.trap = none := rfl
@[simp] theorem setFlags_low (s : State) (w : Word) (c v : Bool) : (s.setFlags w c v).cpsr.low = s.cpsr.low := rfl
@[simp] theorem takeTrap_x (s : State) (k : Word) (q : Reg) : (s.takeTrap k).x q = s.advance.x q := rfl
@[simp] theorem takeTrap_pc (s : State) (k : Word) : (s.takeTrap k).pc = s.advance.pc := rfl

/-- Reading a register after a register write. -/
theorem x_setX (s : State) (r q : Reg) (v : Word) : (s.setX r v).x q = if r = q then v else s.x q := by
  simp [State.x, State.setX, Vector.get_eq_getElem, Vector.getElem_set, Fin.ext_iff]

@[simp] theorem x_setX_same (s : State) (r : Reg) (v : Word) : (s.setX r v).x r = v := by simp [x_setX]

@[simp] theorem x_setX_ne (s : State) {r q : Reg} (h : r ≠ q) (v : Word) : (s.setX r v).x q = s.x q := by
  simp [x_setX, h]

@[simp] theorem pc_setPc (s : State) (v : Word) : (s.setPc v).pc = v := x_setX_same s 15 v

@[simp] theorem x_setPc_ne (s : State) {q : Reg} (h : q ≠ 15) (v : Word) : (s.setPc v).x q = s.x q :=
  x_setX_ne s h.symm v

@[simp] theorem pc_advance (s : State) : s.advance.pc = s.pc + 4#32 := pc_setPc s _

@[simp] theorem x_advance_ne (s : State) {q : Reg} (h : q ≠ 15) : s.advance.x q = s.x q := x_setPc_ne s h _

@[simp] theorem pc_setX_ne (s : State) {r : Reg} (h : r ≠ 15) (v : Word) : (s.setX r v).pc = s.pc :=
  x_setX_ne s h v

/-- A multiply's flag write leaves every field but the CPSR and the count of drawn bits. -/
@[simp] theorem setMultiplyFlags_x (s : State) (w : Word) (q : Reg) : (s.setMultiplyFlags w).x q = s.x q := by
  unfold State.setMultiplyFlags; split <;> rfl

@[simp] theorem setMultiplyFlags_pc (s : State) (w : Word) : (s.setMultiplyFlags w).pc = s.pc :=
  setMultiplyFlags_x s w 15

@[simp] theorem setMultiplyFlags_mem (s : State) (w : Word) : (s.setMultiplyFlags w).mem = s.mem := by
  unfold State.setMultiplyFlags; split <;> rfl

@[simp] theorem setMultiplyFlags_byteAt (s : State) (w a : Word) : (s.setMultiplyFlags w).byteAt a = s.byteAt a := by
  unfold State.setMultiplyFlags; split <;> rfl

@[simp] theorem setMultiplyFlags_trap (s : State) (w : Word) : (s.setMultiplyFlags w).trap = s.trap := by
  unfold State.setMultiplyFlags; split <;> rfl

@[simp] theorem setMultiplyFlags_cfg (s : State) (w : Word) : (s.setMultiplyFlags w).cfg = s.cfg := by
  unfold State.setMultiplyFlags; split <;> rfl

@[simp] theorem setMultiplyFlags_low (s : State) (w : Word) : (s.setMultiplyFlags w).cpsr.low = s.cpsr.low := by
  unfold State.setMultiplyFlags; split <;> rfl

end Sys2Proof.Laws
end

