-- ==== Sys2Proof/Laws/Memory.lean ====
section
/-!
SUPPORT. Memory as cells: a read after a write, and every write keeps the canonical form.
-/

namespace Sys2Proof.Laws

open Sys2Proof Sys2Proof.Machine

/-- In a canonical memory, addresses below the bound are unlisted. -/
theorem readCell_below {m : Memory} : ∀ {lo a : Nat}, Memory.wfFrom lo m = true → a < lo →
    readCell m a = Config.unlistedByte := by
  induction m with
  | nil => intros; rfl
  | cons p rest ih =>
    obtain ⟨k, v⟩ := p
    intro lo a h ha
    simp only [Memory.wfFrom, Bool.and_eq_true, decide_eq_true_eq] at h
    rw [readCell, if_neg (by omega)]
    exact ih h.2 (by omega)

/-- A canonical form above a bound is one above every lower bound. -/
theorem wfFrom_mono {m : Memory} {lo lo' : Nat} (h : Memory.wfFrom lo m = true) (hl : lo' ≤ lo) :
    Memory.wfFrom lo' m = true := by
  cases m with
  | nil => rfl
  | cons p rest =>
    obtain ⟨k, v⟩ := p
    simp only [Memory.wfFrom, Bool.and_eq_true, decide_eq_true_eq] at h ⊢
    exact ⟨⟨⟨by omega, h.1.1.2⟩, h.1.2⟩, h.2⟩

/-- Writing a byte keeps the canonical form (20_memory.md R61: the space ends at 2^32). -/
theorem writeCell_wfFrom {m : Memory} : ∀ {lo a : Nat} (b : Byte), Memory.wfFrom lo m = true → lo ≤ a → a < 2 ^ 32 →
    Memory.wfFrom lo (writeCell m a b) = true := by
  induction m with
  | nil =>
    intro lo a b _ hl ha
    unfold writeCell
    split
    · rfl
    · simp_all [Memory.wfFrom]
  | cons p rest ih =>
    obtain ⟨k, v⟩ := p
    intro lo a b h hl ha
    have hc := h
    simp only [Memory.wfFrom, Bool.and_eq_true, decide_eq_true_eq] at h
    obtain ⟨⟨⟨h1, h2⟩, h3⟩, h4⟩ := h
    unfold writeCell
    split
    · rename_i hlt
      split
      · exact hc
      · rename_i hb
        simp only [Memory.wfFrom, Bool.and_eq_true, decide_eq_true_eq]
        exact ⟨⟨⟨hl, ha⟩, hb⟩, ⟨⟨hlt, h2⟩, h3⟩, h4⟩
    · split
      · split
        · exact wfFrom_mono h4 (by omega)
        · rename_i hk hb
          subst hk
          simp only [Memory.wfFrom, Bool.and_eq_true, decide_eq_true_eq]
          exact ⟨⟨⟨hl, ha⟩, hb⟩, h4⟩
      · simp only [Memory.wfFrom, Bool.and_eq_true, decide_eq_true_eq]
        exact ⟨⟨⟨h1, h2⟩, h3⟩, ih b h4 (by omega) ha⟩

/-- Reading a byte after writing one (20_memory.md R64). -/
theorem readCell_writeCell {m : Memory} : ∀ {lo : Nat} (a c : Nat) (b : Byte), Memory.wfFrom lo m = true →
    readCell (writeCell m a b) c = if a = c then b else readCell m c := by
  induction m with
  | nil =>
    intro lo a c b _
    unfold writeCell
    split
    · rename_i hb
      subst hb
      split <;> rfl
    · rfl
  | cons p rest ih =>
    obtain ⟨k, v⟩ := p
    intro lo a c b h
    simp only [Memory.wfFrom, Bool.and_eq_true, decide_eq_true_eq] at h
    obtain ⟨⟨⟨h1, h2⟩, h3⟩, h4⟩ := h
    have hbelow : ∀ d, d ≤ k → readCell rest d = Config.unlistedByte := fun d hd => readCell_below h4 (by omega)
    unfold writeCell
    split
    · rename_i hlt
      split
      · rename_i hb
        subst hb
        split
        · rename_i hc
          subst hc
          rw [readCell, if_neg (by omega)]
          exact hbelow a (by omega)
        · rfl
      · rfl
    · split
      · rename_i hk
        subst hk
        split
        · rename_i hb
          subst hb
          split
          · rename_i hc
            subst hc
            exact hbelow a (by omega)
          · rename_i hc
            rw [readCell, if_neg hc]
        · simp only [readCell]
          split <;> rfl
      · rename_i hn hk
        simp only [readCell]
        rw [ih a c b h4]
        split
        · rename_i hkc
          rw [if_neg (by omega)]
        · rfl

/-- A byte write leaves every other address as it was, in any list of cells. -/
theorem readCell_writeCell_ne {m : Memory} {a c : Nat} (b : Byte) (hac : a ≠ c) :
    readCell (writeCell m a b) c = readCell m c := by
  induction m with
  | nil =>
    unfold writeCell
    split
    · rfl
    · simp [readCell, hac]
  | cons p rest ih =>
    obtain ⟨k, v⟩ := p
    unfold writeCell
    split
    · split
      · rfl
      · rw [readCell, if_neg hac]
    · split
      · rename_i hk
        subst hk
        split <;> simp [readCell, hac]
      · simp [readCell, ih]

/-- The state's byte write keeps its memory canonical. -/
theorem setByte_wf {s : State} (a : Word) (b : Byte) (h : Memory.wf s.mem = true) :
    Memory.wf (s.setByte a b).mem = true :=
  writeCell_wfFrom b h (Nat.zero_le _) a.isLt

/-- The state's word write keeps its memory canonical. -/
theorem setWord_wf {s : State} (a v : Word) (h : Memory.wf s.mem = true) :
    Memory.wf (s.setWord a v).mem = true :=
  setByte_wf _ _ (setByte_wf _ _ (setByte_wf _ _ (setByte_wf _ _ h)))

/-- Reading a byte of the state after writing one. -/
theorem byteAt_setByte {s : State} (a c : Word) (b : Byte) (h : Memory.wf s.mem = true) :
    (s.setByte a b).byteAt c = if a = c then b else s.byteAt c := by
  unfold State.byteAt State.setByte
  rw [readCell_writeCell _ _ _ h]
  simp [BitVec.toNat_inj]

/-- A byte write of the state leaves every other byte as it was (20_memory.md R68). -/
theorem byteAt_setByte_ne (s : State) {a c : Word} (b : Byte) (h : a ≠ c) : (s.setByte a b).byteAt c = s.byteAt c :=
  readCell_writeCell_ne b fun hn => h (BitVec.eq_of_toNat_eq hn)

/-- A word write of the state leaves every byte outside its four as it was (20_memory.md R63). -/
theorem byteAt_setWord_ne (s : State) {a c : Word} (v : Word) (h : 4 ≤ (c - a).toNat) :
    (s.setWord a v).byteAt c = s.byteAt c := by
  have h0 : a ≠ c := by bv_omega
  have h1 : a + 1#32 ≠ c := by bv_omega
  have h2 : a + 2#32 ≠ c := by bv_omega
  have h3 : a + 3#32 ≠ c := by bv_omega
  unfold State.setWord
  rw [byteAt_setByte_ne _ _ h3, byteAt_setByte_ne _ _ h2, byteAt_setByte_ne _ _ h1, byteAt_setByte_ne _ _ h0]

/-- Reset memory is canonical. -/
theorem reset_mem_wf : Memory.wf State.reset.mem = true := rfl

end Sys2Proof.Laws
end

