-- ==== Sys2Proof/Laws/Ops.lean ====
section
/-!
SUPPORT. One lemma per shared operation: everything it can do when it answers.
-/

namespace Sys2Proof.Laws

open Sys2Proof Sys2Proof.Machine

/-- A gated handler that answers a next state: it was skipped, or its handler built that state (R143, R150). -/
theorem whenPassed_next {c : Cond} {s t : State} {h : Except Raise State} (e : whenPassed c s h = .next t) :
    (conditionPassed c s.cpsr = false ∧ t = s.advance) ∨ (conditionPassed c s.cpsr = true ∧ h = .ok t) := by
  unfold whenPassed settle at e
  split at e
  · rename_i hc
    cases h with
    | ok u => simp at e; exact .inr ⟨hc, by rw [e]⟩
    | error r => simp at e
  · rename_i hc
    simp at e
    exact .inl ⟨by simpa using hc, e.symm⟩

/-- A gated handler whose condition passes answers its handler's state. -/
theorem whenPassed_ok {c : Cond} {s t : State} {h : Except Raise State} (hc : conditionPassed c s.cpsr = true)
    (e : h = .ok t) : whenPassed c s h = .next t := by
  simp [whenPassed, settle, hc, e]

/-- A gated handler whose condition passes faults with its handler's raise (R151). -/
theorem whenPassed_error {c : Cond} {s : State} {h : Except Raise State} {r : Raise}
    (hc : conditionPassed c s.cpsr = true) (e : h = .error r) : whenPassed c s h = .fault (r.toFault none s.pc) := by
  simp [whenPassed, settle, hc, e]

/-- A gated handler whose condition fails only advances the PC (R143). -/
theorem whenPassed_skip {c : Cond} {s : State} {h : Except Raise State} (hc : conditionPassed c s.cpsr = false) :
    whenPassed c s h = .next s.advance := by
  simp [whenPassed, hc]

/-- A gated handler is never refused. -/
theorem whenPassed_not_refused {c : Cond} {s : State} {h : Except Raise State} (r : Refusal) :
    whenPassed c s h ≠ .refused r := by
  unfold whenPassed settle
  split
  · cases h <;> simp
  · simp

/-- The write of a result, where it is allowed, is the next snapshot of R211 and R36. -/
theorem writeRd_ok_iff {s t : State} {rd : Reg} {w : Word} {sf : Bool} :
    writeRd s rd w sf = .ok t ↔ DestinationAllowed rd sf w ∧ t = afterWrite s rd w := by
  unfold writeRd afterWrite DestinationAllowed
  by_cases h : rd = 15
  · have hp : s.setPc w = s.setX 15 w := rfl
    cases sf <;> cases hw : wordAligned w <;> simp [h, hp]
    exact eq_comm
  · have ha : s.advance = s.setX 15 (s.x 15 + 4#32) := rfl
    simp [h, ha]
    exact eq_comm

/-- The bare advance of a comparison, or the write of its result (R214). -/
theorem writeResult_ok_iff {s t : State} {rd : Option Reg} {w : Word} {sf : Bool} :
    writeResult s rd w sf = .ok t ↔
      (rd = none ∧ t = s.advance) ∨ ∃ r, rd = some r ∧ DestinationAllowed r sf w ∧ t = afterWrite s r w := by
  cases rd with
  | none => simp [writeResult, eq_comm]
  | some r => simp [writeResult, writeRd_ok_iff]

/-- Flags as `SetFlags` writes them are those of R146. -/
theorem setFlags_eq (t : State) (w : Word) (c v : Bool) : t.setFlags w c v = withFlags t true w c v := by
  simp [State.setFlags, withFlags, BitVec.msb_eq_getLsbD_last, beq_eq_decide]

/-- Everything a data-processing body does when it answers (R214). -/
theorem dataProcessing_ok_iff {s t : State} {sf : Bool} {rd rn : Option Reg} {op2 : Operand2}
    {f : Word → Word → Bool → AluOut} :
    dataProcessing s sf rd rn op2 f = .ok t ↔
      ∃ a b u, checkRegisterShift rd rn op2 = .ok () ∧ operand2 s op2 = .ok b ∧ readRn s rn = .ok a ∧
        writeResult s rd (f a b.value b.carry).result sf = .ok u ∧
        t = withFlags u (sf || rd.isNone) (f a b.value b.carry).result (f a b.value b.carry).carry
          (f a b.value b.carry).overflow := by
  unfold dataProcessing
  cases h1 : checkRegisterShift rd rn op2 with
  | error r => simp
  | ok _ =>
    cases h2 : operand2 s op2 with
    | error r => simp
    | ok b =>
      cases h3 : readRn s rn with
      | error r => simp
      | ok a =>
        cases h4 : writeResult s rd (f a b.value b.carry).result sf with
        | error r => simp [h4]
        | ok u =>
          have hw : ∀ w c v, withFlags u false w c v = u := fun _ _ _ => rfl
          cases sf <;> cases rd <;> simp [h4, setFlags_eq, hw] <;> exact eq_comm

/-- A data-processing instruction that writes Rd completes when its operands are read and the write is allowed. -/
theorem dataProcessing_completes {c : Cond} {s : State} {sf : Bool} {rd : Reg} {rn : Option Reg} {op2 : Operand2}
    {f : Word → Word → Bool → AluOut} {a : Word} {b : Shifted} (h : OperandsRead c s (some rd) rn op2 a b)
    (hd : DestinationAllowed rd sf (f a b.value b.carry).result) :
    whenPassed c s (dataProcessing s sf (some rd) rn op2 f) =
      .next (withFlags (afterWrite s rd (f a b.value b.carry).result) sf (f a b.value b.carry).result
        (f a b.value b.carry).carry (f a b.value b.carry).overflow) := by
  obtain ⟨hc, h1, h2, h3⟩ := h
  exact whenPassed_ok hc (dataProcessing_ok_iff.mpr
    ⟨a, b, afterWrite s rd (f a b.value b.carry).result, h1, h2, h3,
      writeResult_ok_iff.mpr (.inr ⟨rd, rfl, hd, rfl⟩), by simp⟩)

/-- A comparison completes when its operands are read. -/
theorem dataProcessing_compares {c : Cond} {s : State} {rn : Option Reg} {op2 : Operand2}
    {f : Word → Word → Bool → AluOut} {a : Word} {b : Shifted} (h : OperandsRead c s none rn op2 a b) :
    whenPassed c s (dataProcessing s true none rn op2 f) =
      .next (withFlags s.advance true (f a b.value b.carry).result (f a b.value b.carry).carry
        (f a b.value b.carry).overflow) := by
  obtain ⟨hc, h1, h2, h3⟩ := h
  exact whenPassed_ok hc (dataProcessing_ok_iff.mpr
    ⟨a, b, s.advance, h1, h2, h3, writeResult_ok_iff.mpr (.inl ⟨rfl, rfl⟩), by simp⟩)

/-- The address of a load or store, when its checks pass (R300 to R303). -/
theorem loadStoreAddress_ok_iff {s : State} {p u w : Bool} {rd rn : Reg} {off : Offset} {a : Word} :
    loadStoreAddress s p u w rd rn off = .ok a ↔
      p = true ∧ w = false ∧ rd ≠ 15 ∧ offsetNamesPc off = false ∧
        ∃ base, readReg s rn = .ok base ∧ a = effectiveAddress s u base off := by
  unfold loadStoreAddress
  cases p <;> cases w <;> cases h : offsetNamesPc off <;> by_cases hr : rd = 15 <;>
    cases hb : readReg s rn <;> simp [hr, eq_comm]

/-- What a load does when it answers (R310, R312). -/
theorem loadInto_ok_iff {s t : State} {p u w : Bool} {rd rn : Reg} {off : Offset} {f : Word → Except Raise Word} :
    loadInto s p u w rd rn off f = .ok t ↔
      ∃ a v, loadStoreAddress s p u w rd rn off = .ok a ∧ f a = .ok v ∧ t = s.advance.setX rd v := by
  unfold loadInto
  cases h : loadStoreAddress s p u w rd rn off with
  | error r => simp
  | ok a => cases h2 : f a <;> simp [h2, eq_comm]

/-- What a store does when it answers (R311, R313). -/
theorem storeFrom_ok_iff {s t : State} {p u w : Bool} {rd rn : Reg} {off : Offset} {f : Word → Except Raise State} :
    storeFrom s p u w rd rn off f = .ok t ↔
      ∃ a m, loadStoreAddress s p u w rd rn off = .ok a ∧ f a = .ok m ∧ t = m.advance := by
  unfold storeFrom
  cases h : loadStoreAddress s p u w rd rn off with
  | error r => simp
  | ok a => cases h2 : f a <;> simp [h2, eq_comm]

/-- An access passes its check exactly when it is aligned, if a word, and admitted (R65, R66). -/
theorem checkAccess_ok_iff {cfg : Config} {a : Word} {width : Width} {kind : AccessKind} :
    checkAccess cfg a width kind = .ok () ↔
      (width = .word → wordAligned a = true) ∧ memAdmit cfg a width kind = true := by
  unfold checkAccess
  cases width <;> cases h : wordAligned a <;> cases h2 : memAdmit cfg a _ kind <;> simp

/-- A word load that answers (R62). -/
theorem loadWord_ok_iff {s : State} {a v : Word} :
    loadWord s a = .ok v ↔ wordAligned a = true ∧ memAdmit s.cfg a .word .load = true ∧ v = s.wordAt a := by
  have h := checkAccess_ok_iff (cfg := s.cfg) (a := a) (width := .word) (kind := .load)
  unfold loadWord
  cases hc : checkAccess s.cfg a .word .load with
  | error r => simp [hc] at h ⊢; intro h1 h2; simp [h h1] at h2
  | ok _ => simp [hc] at h ⊢; simp [h, eq_comm]

/-- A byte load that answers (R64). -/
theorem loadByte_ok_iff {s : State} {a : Word} {b : Byte} :
    loadByte s a = .ok b ↔ memAdmit s.cfg a .byte .load = true ∧ b = s.byteAt a := by
  have h := checkAccess_ok_iff (cfg := s.cfg) (a := a) (width := .byte) (kind := .load)
  unfold loadByte
  cases hc : checkAccess s.cfg a .byte .load with
  | error r => simp [hc] at h ⊢; intro h1; simp [h] at h1
  | ok _ => simp [hc] at h ⊢; simp [h, eq_comm]

/-- A word store that answers (R63). -/
theorem storeWord_ok_iff {s t : State} {a v : Word} :
    storeWord s a v = .ok t ↔ wordAligned a = true ∧ memAdmit s.cfg a .word .store = true ∧ t = s.setWord a v := by
  have h := checkAccess_ok_iff (cfg := s.cfg) (a := a) (width := .word) (kind := .store)
  unfold storeWord
  cases hc : checkAccess s.cfg a .word .store with
  | error r => simp [hc] at h ⊢; intro h1 h2; simp [h h1] at h2
  | ok _ => simp [hc] at h ⊢; simp [h, eq_comm]

/-- A byte store that answers (R64). -/
theorem storeByte_ok_iff {s t : State} {a : Word} {b : Byte} :
    storeByte s a b = .ok t ↔ memAdmit s.cfg a .byte .store = true ∧ t = s.setByte a b := by
  have h := checkAccess_ok_iff (cfg := s.cfg) (a := a) (width := .byte) (kind := .store)
  unfold storeByte
  cases hc : checkAccess s.cfg a .byte .store with
  | error r => simp [hc] at h ⊢; intro h1; simp [h] at h1
  | ok _ => simp [hc] at h ⊢; simp [h, eq_comm]

/-- A fetch that answers was at an aligned PC (R70). -/
theorem fetch_ok_aligned {s : State} {w : Word} (h : fetch s = .ok w) : wordAligned s.pc = true := by
  unfold fetch checkAccess at h
  cases ha : wordAligned s.pc with
  | true => rfl
  | false => cases hm : s.cfg.codeMem <;> simp [ha, hm] at h

/-- The multiply body (R331 to R333): the register, the advance, and flags where S is set. -/
theorem multiplyInto_x (s : State) (sf : Bool) (rd : Reg) (w : Word) (q : Reg) :
    (multiplyInto s sf rd w).x q = (s.advance.setX rd w).x q := by
  unfold multiplyInto; cases sf <;> simp

/-- Naming the word of a fault changes no next state. -/
theorem nameWord_next_iff {w : Word} {o : Host.Outcome State Fault Refusal} {t : State} :
    nameWord w o = .next t ↔ o = .next t := by
  cases o <;> simp [nameWord]

/-- Everything a step can do when it answers a next state: a fetched word whose condition fails, or a decoded
instruction that runs (R141). -/
theorem step_next_cases {s t : State} (h : step s = .next t) :
    ∃ w c, fetch s.beginStep = .ok w ∧ condOfBits (fieldOf w 28 4) = some c ∧
      ((conditionPassed c s.cpsr = false ∧ t = s.beginStep.advance) ∨
        ∃ i, conditionPassed c s.cpsr = true ∧ decodeClass s.cfg c w = .ok i ∧ exec i s.beginStep = .next t) := by
  unfold step stepOnce executeOne at h
  split at h
  · simp at h
  · rename_i w hw
    split at h
    · simp at h
    · rename_i c hc
      refine ⟨w, c, hw, hc, ?_⟩
      split at h
      · rename_i hp
        simp at h hp
        exact .inl ⟨hp, h.symm⟩
      · rename_i hp
        split at h
        · simp at h
        · rename_i i hi
          exact .inr ⟨i, by simpa using hp, hi, nameWord_next_iff.mp h⟩

end Sys2Proof.Laws
end

