-- ==== Sys2Proof/Laws/PerInstr.lean ====
section
/-!
SUPPORT. Statements for all instructions, by one lemma per constructor. CondField: bits 31:28 of an instruction's word
are its condition's code (30_encoding.md R96), so the decoder reads back the condition whatever the instruction is.
-/

namespace Sys2Proof.Laws.CondField

open Sys2Proof Sys2Proof.Laws

/-- The condition field of the encoded instruction is that of its condition, under every configuration. -/
def Statement (i : Instr) : Prop := ∀ cfg : Config, condOfBits (fieldOf (encode cfg i) 28 4) = some i.cond

theorem and (c : Cond) (sf : Bool) (rd rn : Reg) (op2 : Operand2) : Statement (.and c sf rd rn op2) := fun _ => cond_encodeDataProcessing ..
theorem eor (c : Cond) (sf : Bool) (rd rn : Reg) (op2 : Operand2) : Statement (.eor c sf rd rn op2) := fun _ => cond_encodeDataProcessing ..
theorem sub (c : Cond) (sf : Bool) (rd rn : Reg) (op2 : Operand2) : Statement (.sub c sf rd rn op2) := fun _ => cond_encodeDataProcessing ..
theorem rsb (c : Cond) (sf : Bool) (rd rn : Reg) (op2 : Operand2) : Statement (.rsb c sf rd rn op2) := fun _ => cond_encodeDataProcessing ..
theorem add (c : Cond) (sf : Bool) (rd rn : Reg) (op2 : Operand2) : Statement (.add c sf rd rn op2) := fun _ => cond_encodeDataProcessing ..
theorem adc (c : Cond) (sf : Bool) (rd rn : Reg) (op2 : Operand2) : Statement (.adc c sf rd rn op2) := fun _ => cond_encodeDataProcessing ..
theorem sbc (c : Cond) (sf : Bool) (rd rn : Reg) (op2 : Operand2) : Statement (.sbc c sf rd rn op2) := fun _ => cond_encodeDataProcessing ..
theorem rsc (c : Cond) (sf : Bool) (rd rn : Reg) (op2 : Operand2) : Statement (.rsc c sf rd rn op2) := fun _ => cond_encodeDataProcessing ..
theorem tst (c : Cond) (rn : Reg) (op2 : Operand2) : Statement (.tst c rn op2) := fun _ => cond_encodeDataProcessing ..
theorem teq (c : Cond) (rn : Reg) (op2 : Operand2) : Statement (.teq c rn op2) := fun _ => cond_encodeDataProcessing ..
theorem cmp (c : Cond) (rn : Reg) (op2 : Operand2) : Statement (.cmp c rn op2) := fun _ => cond_encodeDataProcessing ..
theorem cmn (c : Cond) (rn : Reg) (op2 : Operand2) : Statement (.cmn c rn op2) := fun _ => cond_encodeDataProcessing ..
theorem orr (c : Cond) (sf : Bool) (rd rn : Reg) (op2 : Operand2) : Statement (.orr c sf rd rn op2) := fun _ => cond_encodeDataProcessing ..
theorem mov (c : Cond) (sf : Bool) (rd : Reg) (op2 : Operand2) : Statement (.mov c sf rd op2) := fun _ => cond_encodeDataProcessing ..
theorem bic (c : Cond) (sf : Bool) (rd rn : Reg) (op2 : Operand2) : Statement (.bic c sf rd rn op2) := fun _ => cond_encodeDataProcessing ..
theorem mvn (c : Cond) (sf : Bool) (rd : Reg) (op2 : Operand2) : Statement (.mvn c sf rd op2) := fun _ => cond_encodeDataProcessing ..
theorem lsl (c : Cond) (sf : Bool) (rd rm : Reg) (amt : ShiftAmount) : Statement (.lsl c sf rd rm amt) := fun _ => cond_encodeDataProcessing ..
theorem lsr (c : Cond) (sf : Bool) (rd rm : Reg) (amt : ShiftAmount) : Statement (.lsr c sf rd rm amt) := fun _ => cond_encodeDataProcessing ..
theorem asr (c : Cond) (sf : Bool) (rd rm : Reg) (amt : ShiftAmount) : Statement (.asr c sf rd rm amt) := fun _ => cond_encodeDataProcessing ..
theorem ror (c : Cond) (sf : Bool) (rd rm : Reg) (amt : ShiftAmount) : Statement (.ror c sf rd rm amt) := fun _ => cond_encodeDataProcessing ..
theorem rrx (c : Cond) (sf : Bool) (rd rm : Reg) : Statement (.rrx c sf rd rm) := fun _ => cond_encodeDataProcessing ..
theorem b (c : Cond) (imm24 : BitVec 24) : Statement (.b c imm24) := fun _ => cond_encodeBranch ..
theorem bl (c : Cond) (imm24 : BitVec 24) : Statement (.bl c imm24) := fun _ => cond_encodeBranch ..
theorem ldr (c : Cond) (p u w : Bool) (rd rn : Reg) (off : Offset) : Statement (.ldr c p u w rd rn off) := fun _ => cond_encodeLoadStore ..
theorem str (c : Cond) (p u w : Bool) (rd rn : Reg) (off : Offset) : Statement (.str c p u w rd rn off) := fun _ => cond_encodeLoadStore ..
theorem ldrb (c : Cond) (p u w : Bool) (rd rn : Reg) (off : Offset) : Statement (.ldrb c p u w rd rn off) := fun _ => cond_encodeLoadStore ..
theorem strb (c : Cond) (p u w : Bool) (rd rn : Reg) (off : Offset) : Statement (.strb c p u w rd rn off) := fun _ => cond_encodeLoadStore ..
theorem mul (c : Cond) (sf : Bool) (rd rs rm : Reg) : Statement (.mul c sf rd rs rm) := fun _ => cond_encodeMultiply ..
theorem mla (c : Cond) (sf : Bool) (rd rn rs rm : Reg) : Statement (.mla c sf rd rn rs rm) := fun _ => cond_encodeMultiply ..
theorem swi (c : Cond) (imm24 : BitVec 24) : Statement (.swi c imm24) := fun _ => cond_encodeSwi ..

end Sys2Proof.Laws.CondField
end

