-- ==== Sys2Proof/Tests/Slice0.lean ====
section
/-!
SUPPORT. Tests, each with its source in the spec, and for every obligation with hypotheses a witness that meets them.
The start state is that of 95_test_vectors.md: R15 = 0x1000, everything else 0 unless listed.
-/

namespace Sys2Proof.Tests

open Sys2Proof Sys2Proof.Machine

/-! Helpers -/

/-- The default parameters with RSB and RSC admitted. -/
def admitting : Config := { Config.hardware with admitRsbRsc := true }

/-- The default parameters with `PC_READ = PLUS8`. -/
def plus8 : Config := { Config.hardware with pcRead := .plus8 }

/-- The default parameters with `MULS_CV = UNCHANGED`. -/
def keepCv : Config := { Config.hardware with mulsCv := .unchanged }

/-- The default parameters with `CODE_MEM = SEPARATE` and a MOV R0, R0 at 0x1000. -/
def separate : Config := { Config.hardware with codeMem := .separate, prog := [(0x1000#32, 0xE1A00000#32)] }

/-- The default parameters with `MEM_ADMIT` false for one address, width and kind. -/
def denying (a : Word) (width : Width) (kind : AccessKind) : Config :=
  { Config.hardware with memDeny := [⟨a, a, width, kind⟩] }

/-- The start state with parameters, flags NZCV and registers. -/
def start (cfg : Config) (nzcv : BitVec 4) (regs : List (Reg × Word)) : State :=
  regs.foldl (fun s p => s.setX p.1 p.2)
    (State.setPc { State.reset with
      cfg := cfg
      cpsr := { n := nzcv.getLsbD 3, z := nzcv.getLsbD 2, c := nzcv.getLsbD 1, v := nzcv.getLsbD 0, low := 0#28 } }
      0x1000#32)

/-- One step of the word from the start state. -/
def stepOf (cfg : Config) (nzcv : BitVec 4) (regs : List (Reg × Word)) (w : Nat) : Host.Outcome State Fault Refusal :=
  step ((start cfg nzcv regs).withFetchWord 32 w)

def nextOf : Host.Outcome State Fault Refusal → Option State
  | .next t => some t
  | .fault _ => none
  | .refused _ => none

def faultOf : Host.Outcome State Fault Refusal → Option Fault
  | .next _ => none
  | .fault f => some f
  | .refused _ => none

/-- An outcome with a next state answers it. -/
theorem next_exists {o : Host.Outcome State Fault Refusal} (h : (nextOf o).isSome = true) : ∃ t, o = .next t := by
  cases o with
  | next t => exact ⟨t, rfl⟩
  | fault f => simp [nextOf] at h
  | refused r => simp [nextOf] at h

/-- An outcome whose next state has the tag `tag`. -/
theorem next_tag {o : Host.Outcome State Fault Refusal} {tag : Option Word}
    (h : (nextOf o).map State.trap = some tag) : ∃ t, o = .next t ∧ t.trap = tag := by
  cases o with
  | next t => exact ⟨t, rfl, by simpa [nextOf] using h⟩
  | fault f => simp [nextOf] at h
  | refused r => simp [nextOf] at h

/-- An outcome whose fault is `f`. -/
theorem fault_eq {o : Host.Outcome State Fault Refusal} {f : Fault} (h : faultOf o = some f) : o = .fault f := by
  cases o with
  | next t => simp [faultOf] at h
  | fault g => simp [faultOf] at h; rw [h]
  | refused r => simp [faultOf] at h

/-- The flags as NZCV. -/
def nzcvOf (p : Cpsr) : BitVec 4 := p.toWord.extractLsb' 28 4

/-- After a next state: the register, NZCV, the PC. -/
def view (o : Host.Outcome State Fault Refusal) (r : Reg) : Option (Word × BitVec 4 × Word) :=
  (nextOf o).map fun t => (t.x r, nzcvOf t.cpsr, t.pc)

/-- The start state with the bytes 78 56 34 12 at 0x104 (45_load_store.md R314). -/
def withData (s : State) : State := s.setWord 0x104#32 0x12345678#32

/-- One step of the word with those bytes in memory. -/
def stepData (cfg : Config) (regs : List (Reg × Word)) (w : Nat) : Host.Outcome State Fault Refusal :=
  step ((withData (start cfg 0b0000#4 regs)).withFetchWord 32 w)

/-! WellFormed refuses an ill-formed term for each check, and takes the boundary values. -/

theorem test_wf_lsl_32_refused : (Instr.lsl .al false 0 1 (.imm 32)).wf Config.hardware = false := by decide

theorem test_wf_lsl_bounds :
    (Instr.lsl .al false 0 1 (.imm 0)).wf Config.hardware = true ∧
    (Instr.lsl .al false 0 1 (.imm 31)).wf Config.hardware = true ∧
    (Instr.lsl .al false 0 1 (.reg 2)).wf Config.hardware = true := by decide

theorem test_wf_lsr_33_refused : (Instr.lsr .al false 0 1 (.imm 33)).wf Config.hardware = false := by decide

theorem test_wf_lsr_0_refused : (Instr.lsr .al false 0 1 (.imm 0)).wf Config.hardware = false := by decide

theorem test_wf_lsr_bounds :
    (Instr.lsr .al false 0 1 (.imm 1)).wf Config.hardware = true ∧
    (Instr.lsr .al false 0 1 (.imm 32)).wf Config.hardware = true ∧
    (Instr.lsr .al false 0 1 (.reg 2)).wf Config.hardware = true := by decide

theorem test_wf_asr_33_refused : (Instr.asr .al false 0 1 (.imm 33)).wf Config.hardware = false := by decide

theorem test_wf_asr_0_refused : (Instr.asr .al false 0 1 (.imm 0)).wf Config.hardware = false := by decide

theorem test_wf_asr_bounds :
    (Instr.asr .al false 0 1 (.imm 1)).wf Config.hardware = true ∧
    (Instr.asr .al false 0 1 (.imm 32)).wf Config.hardware = true ∧
    (Instr.asr .al false 0 1 (.reg 2)).wf Config.hardware = true := by decide

theorem test_wf_ror_32_refused : (Instr.ror .al false 0 1 (.imm 32)).wf Config.hardware = false := by decide

theorem test_wf_ror_0_refused : (Instr.ror .al false 0 1 (.imm 0)).wf Config.hardware = false := by decide

theorem test_wf_ror_bounds :
    (Instr.ror .al false 0 1 (.imm 1)).wf Config.hardware = true ∧
    (Instr.ror .al false 0 1 (.imm 31)).wf Config.hardware = true ∧
    (Instr.ror .al false 0 1 (.reg 2)).wf Config.hardware = true := by decide

theorem test_wf_rsb_not_admitted :
    (Instr.rsb .al false 0 1 (.imm 0#4 0#8)).wf Config.hardware = false ∧
    (Instr.rsb .al false 0 1 (.imm 0#4 0#8)).wf admitting = true := by decide

theorem test_wf_rsc_not_admitted :
    (Instr.rsc .al false 0 1 (.imm 0#4 0#8)).wf Config.hardware = false ∧
    (Instr.rsc .al false 0 1 (.imm 0#4 0#8)).wf admitting = true := by decide

/-! Decoding: a word written field by field from 30_encoding.md (R96, R98 to R104, layout DOC) for each constructor. -/

theorem test_decode_and :
    decodeWord Config.hardware 0b0000_00_1_0000_1_1010_0111_0100_11111111#32 = .ok (.and .eq true 10 7 (.imm 4#4 0xFF#8)) := by decide

theorem test_decode_eor :
    decodeWord Config.hardware 0b0001_00_0_0001_0_1010_0111_00011_01_0_0101#32 = .ok (.eor .ne false 10 7 (.shImm 5 .lsr 3#5)) := by decide

theorem test_decode_sub :
    decodeWord Config.hardware 0b0010_00_0_0010_1_1010_0111_0110_0_10_1_0101#32 = .ok (.sub .cs true 10 7 (.shReg 5 .asr 6)) := by decide

theorem test_decode_rsb :
    decodeWord admitting 0b0011_00_0_0011_0_1010_0111_00000_11_0_0101#32 = .ok (.rsb .cc false 10 7 (.shImm 5 .ror 0#5)) := by decide

theorem test_decode_add :
    decodeWord Config.hardware 0b0100_00_1_0100_1_1010_0111_0100_11111111#32 = .ok (.add .mi true 10 7 (.imm 4#4 0xFF#8)) := by decide

theorem test_decode_adc :
    decodeWord Config.hardware 0b0101_00_0_0101_0_1010_0111_00011_01_0_0101#32 = .ok (.adc .pl false 10 7 (.shImm 5 .lsr 3#5)) := by decide

theorem test_decode_sbc :
    decodeWord Config.hardware 0b0110_00_0_0110_1_1010_0111_0110_0_10_1_0101#32 = .ok (.sbc .vs true 10 7 (.shReg 5 .asr 6)) := by decide

theorem test_decode_rsc :
    decodeWord admitting 0b0111_00_0_0111_0_1010_0111_00000_11_0_0101#32 = .ok (.rsc .vc false 10 7 (.shImm 5 .ror 0#5)) := by decide

theorem test_decode_tst :
    decodeWord Config.hardware 0b1000_00_1_1000_1_0000_0111_0100_11111111#32 = .ok (.tst .hi 7 (.imm 4#4 0xFF#8)) := by decide

theorem test_decode_teq :
    decodeWord Config.hardware 0b1001_00_0_1001_1_0000_0111_00011_01_0_0101#32 = .ok (.teq .ls 7 (.shImm 5 .lsr 3#5)) := by decide

theorem test_decode_cmp :
    decodeWord Config.hardware 0b1010_00_0_1010_1_0000_0111_0110_0_10_1_0101#32 = .ok (.cmp .ge 7 (.shReg 5 .asr 6)) := by decide

theorem test_decode_cmn :
    decodeWord Config.hardware 0b1011_00_0_1011_1_0000_0111_00000_11_0_0101#32 = .ok (.cmn .lt 7 (.shImm 5 .ror 0#5)) := by decide

theorem test_decode_orr :
    decodeWord Config.hardware 0b1100_00_1_1100_1_1010_0111_0100_11111111#32 = .ok (.orr .gt true 10 7 (.imm 4#4 0xFF#8)) := by decide

theorem test_decode_mov :
    decodeWord Config.hardware 0b1101_00_0_1101_0_1010_0000_00011_01_0_0101#32 = .ok (.mov .le false 10 (.shImm 5 .lsr 3#5)) := by decide

theorem test_decode_bic :
    decodeWord Config.hardware 0b1110_00_0_1110_1_1010_0111_0110_0_10_1_0101#32 = .ok (.bic .al true 10 7 (.shReg 5 .asr 6)) := by decide

theorem test_decode_mvn :
    decodeWord Config.hardware 0b0000_00_0_1111_0_1010_0000_00000_11_0_0101#32 = .ok (.mvn .eq false 10 (.shImm 5 .ror 0#5)) := by decide

/-- A shift mnemonic's word is that of the MOV it spells (R118, 43_shift_aliases.md). -/
theorem test_decode_shift_mnemonics :
    decodeWord Config.hardware 0b1110_00_0_1101_1_0000_0000_00100_00_0_0001#32 =
      .ok (canonicalInstr (.lsl .al true 0 1 (.imm 4))) ∧
    decodeWord Config.hardware 0b1110_00_0_1101_1_0000_0000_00000_01_0_0001#32 =
      .ok (canonicalInstr (.lsr .al true 0 1 (.imm 32))) ∧
    decodeWord Config.hardware 0b1110_00_0_1101_1_0000_0000_0010_0_10_1_0001#32 =
      .ok (canonicalInstr (.asr .al true 0 1 (.reg 2))) ∧
    decodeWord Config.hardware 0b1110_00_0_1101_1_0000_0000_11111_11_0_0001#32 =
      .ok (canonicalInstr (.ror .al true 0 1 (.imm 31))) ∧
    decodeWord Config.hardware 0b1110_00_0_1101_1_0000_0000_00000_11_0_0001#32 =
      .ok (canonicalInstr (.rrx .al true 0 1)) := by decide

theorem test_decode_b :
    decodeWord Config.hardware 0b0001_101_0_000000000000000000000001#32 = .ok (.b .ne 1#24) := by decide

theorem test_decode_bl :
    decodeWord Config.hardware 0b1110_101_1_111111111111111111111100#32 = .ok (.bl .al 0xFFFFFC#24) := by decide

theorem test_decode_ldr :
    decodeWord Config.hardware 0b1110_01_1_1_0_0_0_1_0000_0010_00101_10_0_0001#32 = .ok (.ldr .al true false false 0 2 (.reg 1 .asr 5#5)) := by decide

theorem test_decode_str :
    decodeWord Config.hardware 0b1110_01_0_1_1_0_0_0_0001_0010_000000000100#32 = .ok (.str .al true true false 1 2 (.imm 4#12)) := by decide

theorem test_decode_ldrb :
    decodeWord Config.hardware 0b1110_01_0_0_1_1_0_1_0001_0010_111111111111#32 = .ok (.ldrb .al false true false 1 2 (.imm 0xFFF#12)) := by decide

theorem test_decode_strb :
    decodeWord Config.hardware 0b1110_01_0_1_1_1_1_0_0001_0010_000000000001#32 = .ok (.strb .al true true true 1 2 (.imm 1#12)) := by decide

theorem test_decode_mul :
    decodeWord Config.hardware 0b1110_000000_0_1_0000_0000_0010_1001_0001#32 = .ok (.mul .al true 0 2 1) := by decide

theorem test_decode_mla :
    decodeWord Config.hardware 0b1110_000000_1_0_0000_0011_0010_1001_0001#32 = .ok (.mla .al false 0 3 2 1) := by decide

theorem test_decode_swi :
    decodeWord Config.hardware 0b1110_1111_000100100011010001010110#32 = .ok (.swi .al 0x123456#24) := by decide

/-- Layout ARM puts Rn above Rd (R92): ADD R0, R1, R2 and LDR R0, [R2, -R1] (95_test_vectors.md 1.4, R314). -/
theorem test_decode_layout_arm :
    decodeWord { Config.hardware with regLayout := .arm } 0xE0810002#32 = .ok (.add .al false 0 1 (.shImm 2 .lsl 0#5)) ∧
    decodeWord { Config.hardware with regLayout := .arm } 0xE7120001#32 =
      .ok (.ldr .al true false false 0 2 (.reg 1 .lsl 0#5)) := by decide

/-- 95_test_vectors.md, section 11. -/
theorem test_decode_faults :
    decodeWord Config.hardware 0xF0000000#32 = .error .condNV ∧
    decodeWord Config.hardware 0xEE000000#32 = .error .coprocessor ∧
    decodeWord Config.hardware 0xEC000000#32 = .error .coprocessor ∧
    decodeWord Config.hardware 0xE8BD4000#32 = .error .blockTransfer ∧
    decodeWord Config.hardware 0xE6000010#32 = .error .undefinedSpace ∧
    decodeWord Config.hardware 0xE1000090#32 = .error .reservedBit7Bit4 ∧
    decodeWord Config.hardware 0xE0400091#32 = .error .reservedBit7Bit4 ∧
    decodeWord Config.hardware 0xE10F0000#32 = .error .compareWithoutS ∧
    decodeWord Config.hardware 0xE0E00000#32 = .error .rsbRscNotAdmitted := by decide

/-- A list of bytes, little-endian (R70): four are taken, fewer are refused. -/
theorem test_decode_bytes :
    decodeBytes Config.hardware [0x02#8, 0x10#8, 0x80#8, 0xE0#8, 0xAA#8] =
      .instr (.add .al false 0 1 (.shImm 2 .lsl 0#5)) [0xAA#8] ∧
    decodeBytes Config.hardware [0x02#8, 0x10#8, 0x80#8] = .tooShort := by decide

/-- The encodings the source gives for ADD R0, R1, R2 (95_test_vectors.md 1.4). -/
theorem test_encode_add :
    encode Config.hardware (.add .al false 0 1 (.shImm 2 .lsl 0#5)) = 0xE0801002#32 := by decide

/-! One step of each instruction. Every expected result is a vector or an example of the spec. -/

/-- 95_test_vectors.md 5. -/
theorem test_and :
    view (stepOf Config.hardware 0b0011#4 [(1, 0xF0F0F0F0#32), (2, 0xF0F0F0F#32)] 0xE0101002) 0 =
      some (0x0#32, 0b0111#4, 0x1004#32) := by decide

/-- 95_test_vectors.md 5: V kept. -/
theorem test_eor :
    view (stepOf Config.hardware 0b0001#4 [(1, 0xF0F0F0F0#32), (2, 0xF0F0F0F#32)] 0xE0301002) 0 =
      some (0xFFFFFFFF#32, 0b1001#4, 0x1004#32) := by decide

/-- 95_test_vectors.md 1.2. -/
theorem test_sub_overflow :
    view (stepOf Config.hardware 0b0000#4 [(1, 0x80000000#32), (2, 0x1#32)] 0xE0501002) 0 =
      some (0x7FFFFFFF#32, 0b0011#4, 0x1004#32) := by decide

/-- 95_test_vectors.md 5: the source is the destination, S = 0. -/
theorem test_sub_same_register :
    view (stepOf Config.hardware 0b1111#4 [(1, 0x12345678#32)] 0xE0411001) 1 =
      some (0x0#32, 0b1111#4, 0x1004#32) := by decide

/-- 42_data_processing.md R223, admitted. -/
theorem test_rsb :
    view (stepOf admitting 0b0000#4 [(1, 0x1#32)] 0xE2701000) 0 =
      some (0xFFFFFFFF#32, 0b1000#4, 0x1004#32) := by decide

/-- 95_test_vectors.md 1.1. -/
theorem test_add_overflow :
    view (stepOf Config.hardware 0b0000#4 [(1, 0x7FFFFFFF#32), (2, 0x1#32)] 0xE0901002) 0 =
      some (0x80000000#32, 0b1001#4, 0x1004#32) := by decide

/-- 95_test_vectors.md 4. -/
theorem test_add_wraps :
    view (stepOf Config.hardware 0b0000#4 [(1, 0xFFFFFFFF#32), (2, 0x1#32)] 0xE0901002) 0 =
      some (0x0#32, 0b0110#4, 0x1004#32) := by decide

/-- 42_data_processing.md R225. -/
theorem test_adc :
    view (stepOf Config.hardware 0b0010#4 [(1, 0xFFFFFFFF#32), (2, 0x0#32)] 0xE0B01002) 0 =
      some (0x0#32, 0b0110#4, 0x1004#32) := by decide

/-- 42_data_processing.md R226. -/
theorem test_sbc :
    view (stepOf Config.hardware 0b0000#4 [(1, 0x5#32), (2, 0x5#32)] 0xE0D01002) 0 =
      some (0xFFFFFFFF#32, 0b1000#4, 0x1004#32) := by decide

/-- 95_test_vectors.md 4. -/
theorem test_sbc_overflow :
    view (stepOf Config.hardware 0b0000#4 [(1, 0x80000000#32), (2, 0x0#32)] 0xE0D01002) 0 =
      some (0x7FFFFFFF#32, 0b0011#4, 0x1004#32) := by decide

/-- 42_data_processing.md R227, admitted. -/
theorem test_rsc :
    view (stepOf admitting 0b0010#4 [(1, 0x1#32), (2, 0x3#32)] 0xE0F01002) 0 =
      some (0x2#32, 0b0010#4, 0x1004#32) := by decide

/-- 42_data_processing.md R228. -/
theorem test_tst :
    view (stepOf Config.hardware 0b0000#4 [(1, 0x80000000#32)] 0xE3101102) 1 =
      some (0x80000000#32, 0b1010#4, 0x1004#32) := by decide

/-- 42_data_processing.md R229. -/
theorem test_teq :
    view (stepOf Config.hardware 0b1011#4 [(1, 0xAAAA#32), (2, 0xAAAA#32)] 0xE1301002) 1 =
      some (0xAAAA#32, 0b0111#4, 0x1004#32) := by decide

/-- 42_data_processing.md R230. -/
theorem test_cmp :
    view (stepOf Config.hardware 0b0000#4 [(1, 0x3#32), (2, 0x3#32)] 0xE1501002) 0 =
      some (0x0#32, 0b0110#4, 0x1004#32) := by decide

/-- 42_data_processing.md R231. -/
theorem test_cmn :
    view (stepOf Config.hardware 0b0000#4 [(1, 0xFFFFFFFF#32)] 0xE3701001) 1 =
      some (0xFFFFFFFF#32, 0b0110#4, 0x1004#32) := by decide

/-- 95_test_vectors.md 5: C is the shifter's. -/
theorem test_orr :
    view (stepOf Config.hardware 0b0000#4 [(1, 0x0#32), (2, 0x80000000#32)] 0xE1901082) 0 =
      some (0x0#32, 0b0110#4, 0x1004#32) := by decide

/-- 42_data_processing.md R233. -/
theorem test_mov :
    view (stepOf Config.hardware 0b0100#4 [] 0xE3B004FF) 0 =
      some (0xFF000000#32, 0b1010#4, 0x1004#32) := by decide

/-- 95_test_vectors.md 5.1: MOV PC, R1 jumps, with no advance. -/
theorem test_mov_jump :
    view (stepOf Config.hardware 0b0000#4 [(1, 0x2000#32)] 0xE1AF0001) 1 =
      some (0x2000#32, 0b0000#4, 0x2000#32) := by decide

/-- 42_data_processing.md R234. -/
theorem test_bic :
    view (stepOf Config.hardware 0b0011#4 [(1, 0xF#32)] 0xE3D0100F) 0 =
      some (0x0#32, 0b0111#4, 0x1004#32) := by decide

/-- 95_test_vectors.md 5. -/
theorem test_mvn :
    view (stepOf Config.hardware 0b0110#4 [(1, 0xFFFF#32)] 0xE1E00001) 0 =
      some (0xFFFF0000#32, 0b0110#4, 0x1004#32) := by decide

/-- 95_test_vectors.md 6. -/
theorem test_lsl :
    view (stepOf Config.hardware 0b0000#4 [(1, 0xF0000001#32)] 0xE1B00201) 0 =
      some (0x10#32, 0b0010#4, 0x1004#32) := by decide

/-- 95_test_vectors.md 6: V kept. -/
theorem test_lsl_by_register_32 :
    view (stepOf Config.hardware 0b0001#4 [(1, 0x1#32), (2, 0x20#32)] 0xE1B00211) 0 =
      some (0x0#32, 0b0111#4, 0x1004#32) := by decide

/-- 95_test_vectors.md 6. -/
theorem test_lsr_32 :
    view (stepOf Config.hardware 0b0000#4 [(1, 0x80000000#32)] 0xE1B00021) 0 =
      some (0x0#32, 0b0110#4, 0x1004#32) := by decide

/-- 95_test_vectors.md 6: the amount is the low byte of R2. -/
theorem test_lsr_by_register_low_byte :
    view (stepOf Config.hardware 0b0010#4 [(1, 0x80000000#32), (2, 0x120#32)] 0xE1B00231) 0 =
      some (0x0#32, 0b0110#4, 0x1004#32) := by decide

/-- 95_test_vectors.md 6. -/
theorem test_asr_32 :
    view (stepOf Config.hardware 0b0000#4 [(1, 0x80000000#32)] 0xE1B00041) 0 =
      some (0xFFFFFFFF#32, 0b1010#4, 0x1004#32) := by decide

/-- 95_test_vectors.md 6. -/
theorem test_ror :
    view (stepOf Config.hardware 0b0000#4 [(1, 0xFF#32)] 0xE1B00461) 0 =
      some (0xFF000000#32, 0b1010#4, 0x1004#32) := by decide

/-- 95_test_vectors.md 6. -/
theorem test_ror_by_register_32 :
    view (stepOf Config.hardware 0b0000#4 [(1, 0x80000001#32), (2, 0x20#32)] 0xE1B00271) 0 =
      some (0x80000001#32, 0b1010#4, 0x1004#32) := by decide

/-- 95_test_vectors.md 6. -/
theorem test_rrx :
    view (stepOf Config.hardware 0b0010#4 [(1, 0x1#32)] 0xE1B00061) 0 =
      some (0x80000000#32, 0b1010#4, 0x1004#32) := by decide

/-- 95_test_vectors.md 6: the mnemonics themselves, executed as written (R260, R262, R264, R266, R268). -/
theorem test_shift_mnemonics :
    view (exec (.lsl .al true 0 1 (.imm 4)) (start Config.hardware 0b0000#4 [(1, 0xF0000001#32)])) 0 =
      some (0x10#32, 0b0010#4, 0x1004#32) ∧
    view (exec (.lsr .al true 0 1 (.imm 32)) (start Config.hardware 0b0000#4 [(1, 0x80000000#32)])) 0 =
      some (0#32, 0b0110#4, 0x1004#32) ∧
    view (exec (.asr .al true 0 1 (.imm 4)) (start Config.hardware 0b0000#4 [(1, 0x8000000F#32)])) 0 =
      some (0xF8000000#32, 0b1010#4, 0x1004#32) ∧
    view (exec (.ror .al true 0 1 (.imm 8)) (start Config.hardware 0b0000#4 [(1, 0xFF#32)])) 0 =
      some (0xFF000000#32, 0b1010#4, 0x1004#32) ∧
    view (exec (.rrx .al true 0 1) (start Config.hardware 0b0010#4 [(1, 1#32)])) 0 =
      some (0x80000000#32, 0b1010#4, 0x1004#32) := by decide

/-- 95_test_vectors.md 7: the largest backward offset. -/
theorem test_b_backward :
    view (stepOf Config.hardware 0b0000#4 [] 0xEA800000) 14 =
      some (0x0#32, 0b0000#4, 0xFE001008#32) := by decide

/-- 95_test_vectors.md 7. -/
theorem test_b_not_taken :
    view (stepOf Config.hardware 0b0100#4 [] 0x1A000001) 14 =
      some (0x0#32, 0b0100#4, 0x1004#32) := by decide

/-- 95_test_vectors.md 1.5. -/
theorem test_bl_forward :
    view (stepOf Config.hardware 0b0000#4 [] 0xEB000004) 14 =
      some (0x1004#32, 0b0000#4, 0x1018#32) := by decide

/-- 95_test_vectors.md 1.5. -/
theorem test_bl_backward :
    view (stepOf Config.hardware 0b0000#4 [] 0xEBFFFFFC) 14 =
      some (0x1004#32, 0b0000#4, 0xFF8#32) := by decide

/-- 45_load_store.md R314. -/
theorem test_ldr_negative_offset :
    view (stepData Config.hardware [(2, 0x108#32), (1, 0x4#32)] 0xE7102001) 0 =
      some (0x12345678#32, 0b0000#4, 0x1004#32) := by decide

/-- 45_load_store.md R314. -/
theorem test_ldr_base_is_destination :
    view (stepData Config.hardware [(2, 0x104#32)] 0xE5922000) 2 =
      some (0x12345678#32, 0b0000#4, 0x1004#32) := by decide

/-- 95_test_vectors.md 8, at the address of R314's bytes. -/
theorem test_ldrb_zero_extends :
    view (stepData Config.hardware [(2, 0x104#32), (0, 0xFFFFFFFF#32)] 0xE5D02003) 0 =
      some (0x12#32, 0b0000#4, 0x1004#32) := by decide

/-- 45_load_store.md R311: the word is stored little-endian, and nothing beside it. -/
theorem test_str_little_endian :
    (nextOf (stepData Config.hardware [(1, 0xAABBCCDD#32), (2, 0x100#32)] 0xE5812000)).map
      (fun t => [t.byteAt 0xFF#32, t.byteAt 0x100#32, t.byteAt 0x101#32, t.byteAt 0x102#32, t.byteAt 0x103#32,
        t.byteAt 0x104#32]) = some [0x00#8, 0xDD#8, 0xCC#8, 0xBB#8, 0xAA#8, 0x78#8] := by decide

/-- 95_test_vectors.md 8, at the address of R314's bytes: only the addressed byte changes. -/
theorem test_strb_one_byte :
    (nextOf (stepData Config.hardware [(1, 0xAABBCCDD#32), (2, 0x104#32)] 0xE5C12001)).map
      (fun t => (t.wordAt 0x104#32, Memory.wf t.mem)) = some (0x1234DD78#32, true) := by decide

/-- 46_multiply.md R331. -/
theorem test_mul_truncates :
    view (stepOf Config.hardware 0b1111#4 [(1, 0x12345678#32), (2, 0x9ABCDEF0#32)] 0xE0000291) 0 =
      some (0x242D2080#32, 0b1111#4, 0x1004#32) := by decide

/-- 46_multiply.md R334: C and V kept under UNCHANGED. -/
theorem test_muls_flags :
    view (stepOf keepCv 0b0011#4 [(1, 0x10000#32), (2, 0x10000#32)] 0xE0100291) 0 =
      some (0x0#32, 0b0111#4, 0x1004#32) := by decide

/-- 46_multiply.md R334: under DRAW N and Z are the result's, two bits are drawn. -/
theorem test_muls_draw :
    (nextOf (stepOf Config.hardware 0b0000#4 [(1, 0xFFFFFFFF#32), (2, 2#32)] 0xE0100291)).map
      (fun t => (t.x 0, t.cpsr.n, t.cpsr.z, t.draws)) = some (0xFFFFFFFE#32, true, false, 2) := by decide

/-- 46_multiply.md R332. -/
theorem test_mla :
    view (stepOf Config.hardware 0b0000#4 [(1, 0x3#32), (2, 0x4#32), (3, 0x5#32)] 0xE0203291) 0 =
      some (0x11#32, 0b0000#4, 0x1004#32) := by decide

/-- 46_multiply.md R332. -/
theorem test_mlas :
    view (stepOf keepCv 0b0000#4 [(1, 0xFFFFFFFF#32), (2, 0x1#32), (3, 0x1#32)] 0xE0303291) 0 =
      some (0x0#32, 0b0100#4, 0x1004#32) := by decide

/-- 95_test_vectors.md 10: the trap's code, the advanced PC, no flag. -/
theorem test_swi :
    (nextOf (stepOf Config.hardware 0b1111#4 [] 0xEFFFFFFF)).map (fun t => (t.trap, t.pc, nzcvOf t.cpsr)) =
      some (some 0xFFFFFF#32, 0x1004#32, 0b1111#4) := by decide

/-- 95_test_vectors.md 10: no trap with a failing condition. -/
theorem test_swi_skipped :
    (nextOf (stepOf Config.hardware 0b0000#4 [] 0x0F000011)).map (fun t => (t.trap, t.pc)) =
      some (none, 0x1004#32) := by decide

/-! Faults: kind, reason, word, PC, address (60_exceptions.md R361 to R368). -/

/-- 95_test_vectors.md 12: the order of the checks. -/
theorem test_fault_order :
    faultOf (stepOf Config.hardware 0b0000#4 [] 0xFE000000) = some (.decodeFault .condNV (some 0xFE000000#32) 0x1000#32) ∧
    (nextOf (stepOf Config.hardware 0b0000#4 [] 0x06000010)).map State.pc = some 0x1004#32 ∧
    faultOf (stepOf Config.hardware 0b0000#4 [(2, 0x100#32)] 0xE49F2000) =
      some (.unsupportedEncoding .indexingMode (some 0xE49F2000#32) 0x1000#32) ∧
    faultOf (stepOf (denying 0x101#32 .word .load) 0b0000#4 [(2, 0x100#32)] 0xE5902001) =
      some (.memoryFault .misaligned (some 0xE5902001#32) 0x1000#32 0x101#32) := by decide

/-- 95_test_vectors.md 5.1: R15 in data processing. -/
theorem test_pc_operand_faults :
    faultOf (stepOf Config.hardware 0b0000#4 [] 0xE280F004) =
      some (.unsupportedEncoding .pcOperand (some 0xE280F004#32) 0x1000#32) ∧
    faultOf (stepOf plus8 0b0000#4 [] 0xE1A00F11) =
      some (.unsupportedEncoding .pcInRegisterShift (some 0xE1A00F11#32) 0x1000#32) ∧
    faultOf (stepOf Config.hardware 0b0000#4 [(14, 0x2000#32)] 0xE1BF000E) =
      some (.unsupportedEncoding .pcWriteWithS (some 0xE1BF000E#32) 0x1000#32) ∧
    faultOf (stepOf Config.hardware 0b0000#4 [(1, 0x2002#32)] 0xE1AF0001) =
      some (.unsupportedEncoding .pcWriteMisaligned (some 0xE1AF0001#32) 0x1000#32) ∧
    view (stepOf plus8 0b0000#4 [] 0xE280F004) 0 = some (0x100C#32, 0b0000#4, 0x1004#32) := by decide

/-- 45_load_store.md R314 and 46_multiply.md R334. -/
theorem test_other_faults :
    faultOf (stepOf Config.hardware 0b0000#4 [(2, 0x100#32)] 0xE59F2000) =
      some (.unsupportedEncoding .pcLoadStore (some 0xE59F2000#32) 0x1000#32) ∧
    faultOf (stepOf (denying 0x100#32 .word .load) 0b0000#4 [(2, 0x100#32)] 0xE5902000) =
      some (.memoryFault .rejected (some 0xE5902000#32) 0x1000#32 0x100#32) ∧
    faultOf (stepOf Config.hardware 0b0000#4 [(2, 0x108#32), (1, 0x80000000#32)] 0xE7902041) =
      some (.memoryFault .misaligned (some 0xE7902041#32) 0x1000#32 0x107#32) ∧
    faultOf (stepOf Config.hardware 0b0000#4 [] 0xE020F291) =
      some (.unsupportedEncoding .pcInMultiply (some 0xE020F291#32) 0x1000#32) := by decide

/-! The barrel shifter: 95_test_vectors.md, section 2, Rm = 0x80000001. -/

theorem test_shift_immediate_table :
    shiftImm .lsl 0x80000001#32 0 true = ⟨0x80000001#32, true⟩ ∧ shiftImm .lsl 0x80000001#32 1 false = ⟨2#32, true⟩ ∧
    shiftImm .lsl 0x80000001#32 31 false = ⟨0x80000000#32, false⟩ ∧ shiftImm .lsr 0x80000001#32 0 false = ⟨0#32, true⟩ ∧
    shiftImm .lsr 0x80000001#32 31 false = ⟨1#32, false⟩ ∧ shiftImm .asr 0x80000001#32 0 false = ⟨0xFFFFFFFF#32, true⟩ ∧
    shiftImm .asr 0x80000001#32 1 false = ⟨0xC0000000#32, true⟩ ∧
    shiftImm .ror 0x80000001#32 0 true = ⟨0xC0000000#32, true⟩ ∧
    shiftImm .ror 0x80000001#32 31 false = ⟨3#32, false⟩ := by decide

theorem test_shift_register_table :
    shiftReg .lsl 0x80000001#32 0 true = ⟨0x80000001#32, true⟩ ∧ shiftReg .lsl 0x80000001#32 32 false = ⟨0#32, true⟩ ∧
    shiftReg .lsl 0x80000001#32 33 false = ⟨0#32, false⟩ ∧ shiftReg .lsr 0x80000001#32 32 false = ⟨0#32, true⟩ ∧
    shiftReg .lsr 0x80000001#32 255 false = ⟨0#32, false⟩ ∧
    shiftReg .asr 0x80000001#32 255 false = ⟨0xFFFFFFFF#32, true⟩ ∧
    shiftReg .asr 0x7FFFFFFF#32 32 false = ⟨0#32, false⟩ ∧
    shiftReg .ror 0x80000001#32 33 false = ⟨0xC0000000#32, true⟩ ∧
    shiftReg .ror 0x80000001#32 64 false = ⟨0x80000001#32, true⟩ ∧
    shiftReg .ror 0x80000001#32 40 false = ⟨0x01800000#32, false⟩ := by decide

/-- The lowest and highest code of each kind (60_exceptions.md R365). -/
theorem test_fault_codes :
    [faultCode (.decodeFault .condNV none 0#32), faultCode (.decodeFault .rsbRscNotAdmitted none 0#32),
      faultCode (.unsupportedEncoding .pcOperand none 0#32), faultCode (.unsupportedEncoding .pcInMultiply none 0#32),
      faultCode (.memoryFault .misaligned none 0#32 0#32), faultCode (.memoryFault .rejected none 0#32 0#32)] =
      [1, 7, 16, 22, 32, 33] := by decide

/-! The host's fixed names. -/

/-- A placed word runs first after reset. -/
theorem test_fetch_word :
    view (step (State.reset.withFetchWord 32 0xE3A0000A)) 0 = some (10#32, 0b0000#4, 4#32) ∧
    decodeTableWord 32 0xE3A0000A = some (.mov .al false 0 (.imm 0#4 10#8)) := by decide

/-- Writing the value an unlisted byte reads as removes the cell. -/
theorem test_memory_canonical :
    ((State.reset.setByte 5#32 7#8).setByte 5#32 0#8).mem = [] ∧
    ((State.reset.setByte 5#32 7#8).setByte 4#32 1#8).mem = [(4, 1#8), (5, 7#8)] ∧
    Memory.wf [(5, 7#8), (4, 1#8)] = false ∧ Memory.wf [(5, 0#8)] = false ∧ Memory.wf [(2 ^ 32, 1#8)] = false := by
  decide

/-! Witnesses: for every obligation with hypotheses, values that meet them together, each clause at a boundary. -/

/-- The start state with a word placed at its PC. -/
def placed (cfg : Config) (nzcv : BitVec 4) (w : Nat) : State := (start cfg nzcv []).withFetchWord 32 w

/-- The start state with R0 = 1, R1 = 0x80000000, R2 = 0x1000. -/
def regs3 (cfg : Config) : State := start cfg 0b0010#4 [(0, 1#32), (1, 0x80000000#32), (2, 0x1000#32)]

theorem witness_EncodedInstructionDecodesToItself :
    (Instr.lsl .al true 0 1 (.imm 31)).wf Config.hardware = true ∧
    (Instr.lsr .al true 0 1 (.imm 32)).wf Config.hardware = true ∧
    (Instr.rsb .al true 15 15 (.shReg 15 .ror 15)).wf admitting = true := by decide

theorem witness_DecodedWordEncodesBack :
    decodeWord Config.hardware 0xE15F0000#32 = .ok (.cmp .al 0 (.shImm 0 .lsl 0#5)) := by decide

/-- One word for each clause; the fourth with bits 27:22 = 000001. -/
theorem witness_UnadmittedWordsFault :
    (fetch (placed Config.hardware 0b0000#4 0xEE000000).beginStep = .ok 0xEE000000#32 ∧
      condOfBits (fieldOf 0xEE000000#32 28 4) = some .al ∧ fieldOf 0xEE000000#32 24 4 = 0b1110#4) ∧
    (fetch (placed Config.hardware 0b0000#4 0xEC000000).beginStep = .ok 0xEC000000#32 ∧
      fieldOf 0xEC000000#32 25 3 = 0b110#3) ∧
    (fetch (placed Config.hardware 0b0000#4 0xE8BD4000).beginStep = .ok 0xE8BD4000#32 ∧
      fieldOf 0xE8BD4000#32 25 3 = 0b100#3) ∧
    (fetch (placed Config.hardware 0b0000#4 0xE6000010).beginStep = .ok 0xE6000010#32 ∧
      fieldOf 0xE6000010#32 25 3 = 0b011#3 ∧ bitOf 0xE6000010#32 4 = true) ∧
    (fetch (placed Config.hardware 0b0000#4 0xE0400091).beginStep = .ok 0xE0400091#32 ∧
      fieldOf 0xE0400091#32 25 3 = 0b000#3 ∧ bitOf 0xE0400091#32 7 = true ∧ bitOf 0xE0400091#32 4 = true ∧
      ¬ (fieldOf 0xE0400091#32 22 6 = 0b000000#6 ∧ fieldOf 0xE0400091#32 4 4 = 0b1001#4)) ∧
    (fetch (placed Config.hardware 0b0000#4 0xE10F0000).beginStep = .ok 0xE10F0000#32 ∧
      fieldOf 0xE10F0000#32 26 2 = 0b00#2 ∧ fieldOf 0xE10F0000#32 23 2 = 0b10#2 ∧ bitOf 0xE10F0000#32 20 = false ∧
      ¬ (bitOf 0xE10F0000#32 25 = false ∧ bitOf 0xE10F0000#32 7 = true ∧ bitOf 0xE10F0000#32 4 = true)) ∧
    ∀ w ∈ [0xEE000000, 0xEC000000, 0xE8BD4000, 0xE6000010, 0xE0400091, 0xE10F0000],
      condOfBits (fieldOf (BitVec.ofNat 32 w) 28 4) = some .al ∧
      conditionPassed .al (placed Config.hardware 0b0000#4 w).cpsr = true := by decide

theorem witness_RsbAndRscAreAdmittedByParameter :
    (fetch (placed Config.hardware 0b0000#4 0xE2701000).beginStep = .ok 0xE2701000#32 ∧
      Config.hardware.admitRsbRsc = false) ∧
    (fetch (placed admitting 0b0000#4 0xE2701000).beginStep = .ok 0xE2701000#32 ∧ admitting.admitRsbRsc = true) ∧
    (fetch (placed admitting 0b0000#4 0xE0F01002).beginStep = .ok 0xE0F01002#32 ∧
      fieldOf 0xE0F01002#32 21 4 = 0b0111#4) ∧
    (∀ w ∈ [0xE2701000, 0xE0F01002], condOfBits (fieldOf (BitVec.ofNat 32 w) 28 4) = some .al ∧
      fieldOf (BitVec.ofNat 32 w) 26 2 = 0b00#2 ∧
      conditionPassed .al (placed Config.hardware 0b0000#4 w).cpsr = true ∧
      conditionPassed .al (placed admitting 0b0000#4 w).cpsr = true) ∧
    ¬ (bitOf 0xE0F01002#32 25 = false ∧ bitOf 0xE0F01002#32 7 = true ∧ bitOf 0xE0F01002#32 4 = true) ∧
    bitOf 0xE2701000#32 25 = true ∧ fieldOf 0xE2701000#32 21 4 = 0b0011#4 := by decide

theorem witness_ConditionNvFaults :
    fetch (placed Config.hardware 0b0000#4 0xFFFFFFFF).beginStep = .ok 0xFFFFFFFF#32 ∧
    fieldOf 0xFFFFFFFF#32 28 4 = 0b1111#4 := by decide

theorem witness_StepRunsTheDecodedInstruction :
    (Config.hardware.codeMem = .unified ∧ wordAligned (placed Config.hardware 0b0000#4 0xE1A00000).pc = true ∧
      memAdmit Config.hardware 0x1000#32 .word .fetch = true ∧
      decodeBytes Config.hardware
        [(placed Config.hardware 0b0000#4 0xE1A00000).byteAt 0x1000#32,
          (placed Config.hardware 0b0000#4 0xE1A00000).byteAt 0x1001#32,
          (placed Config.hardware 0b0000#4 0xE1A00000).byteAt 0x1002#32,
          (placed Config.hardware 0b0000#4 0xE1A00000).byteAt 0x1003#32] =
        .instr (.mov .al false 0 (.shImm 0 .lsl 0#5)) []) ∧
    (separate.codeMem = .separate ∧ wordAligned (start separate 0b0000#4 []).pc = true ∧
      progAt separate.prog (start separate 0b0000#4 []).pc = some 0xE1A00000#32 ∧
      decodeWord separate 0xE1A00000#32 = .ok (.mov .al false 0 (.shImm 0 .lsl 0#5))) := by decide

/-- One state for each clause. -/
theorem witness_FetchFollowsTheRule :
    wordAligned ((start Config.hardware 0b0000#4 []).setPc 0x1002#32).pc = false ∧
    (wordAligned (start (denying 0x1000#32 .word .fetch) 0b0000#4 []).pc = true ∧
      memAdmit (denying 0x1000#32 .word .fetch) (start (denying 0x1000#32 .word .fetch) 0b0000#4 []).pc .word .fetch =
        false) ∧
    (wordAligned (start Config.hardware 0b0000#4 []).pc = true ∧ Config.hardware.codeMem = .unified ∧
      memAdmit Config.hardware (start Config.hardware 0b0000#4 []).pc .word .fetch = true) ∧
    (wordAligned ((start separate 0b0000#4 []).setPc 0x1004#32).pc = true ∧ separate.codeMem = .separate ∧
      progAt separate.prog 0x1004#32 = none) ∧
    progAt separate.prog (start separate 0b0000#4 []).pc = some 0xE1A00000#32 := by decide

/-- An undecodable word under a failing condition. -/
theorem witness_FailedConditionOnlyAdvancesPc :
    fetch (placed Config.hardware 0b0000#4 0x06000010).beginStep = .ok 0x06000010#32 ∧
    condOfBits (fieldOf 0x06000010#32 28 4) = some .eq ∧
    conditionPassed .eq (placed Config.hardware 0b0000#4 0x06000010).cpsr = false := by decide

theorem witness_EveryInstructionIsConditional :
    conditionPassed (Instr.swi .eq 0x11#24).cond (start Config.hardware 0b1011#4 []).cpsr = false := by decide

/-- A store in a state with memory, and SWI with the largest code. -/
theorem witness_StepKeepsTheInvariant :
    ((placed Config.hardware 0b0000#4 0xE5812000).Inv ∧
      ∃ t, step (placed Config.hardware 0b0000#4 0xE5812000) = .next t) ∧
    ((placed Config.hardware 0b0000#4 0xEFFFFFFF).Inv ∧
      ∃ t, step (placed Config.hardware 0b0000#4 0xEFFFFFFF) = .next t) :=
  ⟨⟨by decide, next_exists (by decide)⟩, ⟨by decide, next_exists (by decide)⟩⟩

/-- A launch at the last aligned address, with a byte of memory. -/
def launchAtTop : Launch :=
  { entryPc := 0xFFFFFFFC#32, initRegs := Vector.replicate 15 0#32, n := true, z := false, c := false, v := false
    initMem := [(0, 1#8)], cfg := Config.hardware }

theorem witness_LaunchMeetsTheInvariant : launchAtTop.Legal := by decide

theorem witness_PcIsAlignedInEveryReachedState :
    (wordAligned launchAtTop.entryPc = true ∧
      ∃ t, Host.Core.run Sys2Proof.core 0 (State.launch launchAtTop) = .next t) ∧
    (∃ t, Host.Core.run Sys2Proof.core 1 (State.launch launchAtTop) = .next t) ∧
    wordAligned ((start Config.hardware 0b0000#4 []).setPc 0x1001#32).pc = false :=
  ⟨⟨by decide, ⟨State.launch launchAtTop, rfl⟩⟩, by
    obtain ⟨t, h⟩ : ∃ t, step (State.launch launchAtTop) = .next t := next_exists (by decide)
    exact ⟨t, by simp [Host.Core.run, core, h]⟩, by decide⟩

theorem witness_StepKeepsTheParameters : ∃ t, step (placed plus8 0b0000#4 0xE1A00000) = .next t :=
  next_exists (by decide)

/-- ADD R2, R0, R0 changes R2. -/
theorem witness_OnlyTheWrittenRegisterChanges :
    ∃ t, exec (.add .al false 2 0 (.shImm 0 .lsl 0#5)) (regs3 Config.hardware) = .next t ∧ (2 : Reg) ≠ 15 ∧
      t.x 2 ≠ (regs3 Config.hardware).x 2 := by
  have h : (nextOf (exec (.add .al false 2 0 (.shImm 0 .lsl 0#5)) (regs3 Config.hardware))).any
      (fun t => decide (t.x 2 ≠ (regs3 Config.hardware).x 2)) = true := by decide
  cases e : exec (.add .al false 2 0 (.shImm 0 .lsl 0#5)) (regs3 Config.hardware) with
  | next t => exact ⟨t, rfl, by decide, by simpa [e, nextOf] using h⟩
  | fault f => simp [e, nextOf] at h
  | refused r => simp [e, nextOf] at h

theorem witness_OnlyFlagWritersChangeFlags :
    (writesFlags (.add .al false 2 0 (.shImm 1 .lsl 0#5)) = false ∧
      ∃ t, exec (.add .al false 2 0 (.shImm 1 .lsl 0#5)) (regs3 Config.hardware) = .next t) ∧
    (writesFlags (.swi .al 0#24) = false ∧ ∃ t, exec (.swi .al 0#24) (regs3 Config.hardware) = .next t) :=
  ⟨⟨rfl, next_exists (by decide)⟩, ⟨rfl, next_exists (by decide)⟩⟩

theorem witness_NAndZFollowTheWrittenResult :
    (conditionPassed .al (regs3 Config.hardware).cpsr = true ∧
      writesFlags (.mov .al true 0 (.shImm 1 .lsl 1#5)) = true ∧
      writtenRegister (.mov .al true 0 (.shImm 1 .lsl 1#5)) = some 0 ∧
      ∃ t, exec (.mov .al true 0 (.shImm 1 .lsl 1#5)) (regs3 Config.hardware) = .next t) ∧
    (writesFlags (.mla .al true 0 0 1 1) = true ∧ writtenRegister (.mla .al true 0 0 1 1) = some 0 ∧
      ∃ t, exec (.mla .al true 0 0 1 1) (regs3 Config.hardware) = .next t) :=
  ⟨⟨by decide, rfl, rfl, next_exists (by decide)⟩, ⟨rfl, rfl, next_exists (by decide)⟩⟩

/-- A fault of an instruction, and a fetch fault. -/
theorem witness_FaultNamesWordAndPc :
    (step (placed Config.hardware 0b0000#4 0xEE000000) =
        .fault (.decodeFault .coprocessor (some 0xEE000000#32) 0x1000#32) ∧
      fetch (placed Config.hardware 0b0000#4 0xEE000000).beginStep = .ok 0xEE000000#32) ∧
    (step ((start Config.hardware 0b0000#4 []).setPc 0x1002#32) =
        .fault (.memoryFault .misaligned none 0x1002#32 0x1002#32) ∧
      fetch ((start Config.hardware 0b0000#4 []).setPc 0x1002#32).beginStep = .error (.memory .misaligned 0x1002#32)) :=
  ⟨⟨fault_eq (by decide), by decide⟩, ⟨fault_eq (by decide), by decide⟩⟩

theorem witness_OnlySwiTraps :
    ∃ t, step (placed Config.hardware 0b0000#4 0xEFFFFFFF) = .next t ∧ t.trap = some 0xFFFFFF#32 :=
  next_tag (by decide)

/-- A fault, the largest trap code, a next state without a tag. -/
theorem witness_RunEndsAtTheFirstTrapOrFault :
    step (placed Config.hardware 0b0000#4 0xEE000000) =
      .fault (.decodeFault .coprocessor (some 0xEE000000#32) 0x1000#32) ∧
    (∃ t, step (placed Config.hardware 0b0000#4 0xEFFFFFFF) = .next t ∧ t.trap = some 0xFFFFFF#32) ∧
    (∃ t, step (placed Config.hardware 0b0000#4 0xE1A00000) = .next t ∧ t.trap = none) ∧
    (fetch (placed Config.hardware 0b0000#4 0xEFFFFFFF) = .ok 0xEFFFFFFF#32 ∧
      decodeWord Config.hardware 0xEFFFFFFF#32 = .ok (.swi .al 0xFFFFFF#24) ∧
      conditionPassed .al (placed Config.hardware 0b0000#4 0xEFFFFFFF).cpsr = true) :=
  ⟨fault_eq (by decide), witness_OnlySwiTraps, next_tag (by decide), by decide⟩

/-- A canonical memory that is not empty; the word at the top of memory wraps. -/
theorem witness_WordsAndBytesViewTheSameMemory :
    Memory.wf (withData (start Config.hardware 0b0000#4 [])).mem = true ∧
    ((withData State.reset).setWord 0xFFFFFFFE#32 0xAABBCCDD#32).byteAt 1#32 = 0xAA#8 ∧
    (0 : Nat) < 32 ∧ (31 : Nat) < 32 := by decide

theorem witness_StoreIsSeenByFetchOnlyIfUnified :
    (Memory.wf (regs3 Config.hardware).mem = true ∧
      AddressComputed .al (regs3 Config.hardware) true true false 0 2 (.imm 0#12) 0x1000#32 0x1000#32 ∧
      (∃ t, exec (.str .al true true false 0 2 (.imm 0#12)) (regs3 Config.hardware) = .next t) ∧
      Config.hardware.codeMem = .unified ∧ memAdmit Config.hardware 0x1000#32 .word .fetch = true) ∧
    (Memory.wf (regs3 separate).mem = true ∧
      AddressComputed .al (regs3 separate) true false false 0 2 (.imm 0xFFC#12) 0x1000#32 4#32 ∧
      (∃ t, exec (.str .al true false false 0 2 (.imm 0xFFC#12)) (regs3 separate) = .next t) ∧
      separate.codeMem = .separate) :=
  ⟨⟨by decide, by decide, next_exists (by decide), by decide⟩, ⟨by decide, by decide, next_exists (by decide), by decide⟩⟩

/-- The amounts where the clauses of the shifts meet. -/
theorem witness_ShiftByAmountField : ((1 : Nat) ≤ 1 ∧ (1 : Nat) ≤ 31) ∧ ((1 : Nat) ≤ 31 ∧ (31 : Nat) ≤ 31) := by decide

theorem witness_ShiftByRegisterAmount :
    ((1 : Nat) ≤ 31 ∧ (31 : Nat) ≤ 31) ∧ (33 : Nat) ≤ 255 ∧ (32 : Nat) ≤ 32 ∧ ((1 : Nat) ≤ 224 ∧ 224 % 32 = 0) ∧
    255 % 32 ≠ 0 := by decide

theorem witness_OperandReadOfEveryRegister :
    (14 : Reg) ≠ 15 ∧ (start plus8 0b0000#4 []).cfg.pcRead = .plus8 ∧
    (start Config.hardware 0b0000#4 []).cfg.pcRead = .unsupported := by decide

theorem witness_OperandTwoByForm :
    readReg (start plus8 0b0000#4 []) 15 = .ok 0x1008#32 ∧
    readReg (start Config.hardware 0b0000#4 []) 15 = .error (.unsupported .pcOperand) := by decide

/-- Each form of operand-2, and a jump. -/
theorem witness_LogicalInstructionsComplete :
    (OperandsRead .al (regs3 Config.hardware) (some 3) (some 0) (.imm 4#4 0xFF#8) 1#32 ⟨0xFF000000#32, true⟩ ∧
      DestinationAllowed 3 true (1#32 &&& 0xFF000000#32)) ∧
    OperandsRead .al (regs3 Config.hardware) (some 3) (some 0) (.shReg 1 .lsr 2) 1#32 ⟨0x80000000#32, true⟩ ∧
    (OperandsRead .al (regs3 plus8) (some 15) (some 0) (.shImm 15 .lsl 0#5) 1#32 ⟨0x1008#32, true⟩ ∧
      DestinationAllowed 15 false (1#32 &&& 0x1008#32) ∧ DestinationAllowed 3 true (1#32 ^^^ 0x1008#32) ∧
      DestinationAllowed 3 true (1#32 ||| 0x1008#32) ∧ DestinationAllowed 3 true (1#32 &&& ~~~0x1008#32)) := by
  decide

theorem witness_MovesComplete :
    OperandsRead .al (regs3 Config.hardware) (some 15) none (.shImm 2 .lsl 0#5) 0#32 ⟨0x1000#32, true⟩ ∧
    DestinationAllowed 15 false 0x1000#32 ∧ DestinationAllowed 0 true (~~~0x1000#32) := by decide

/-- The smallest and largest written amounts. -/
theorem witness_ShiftsByImmediateComplete :
    conditionPassed .al (regs3 Config.hardware).cpsr = true ∧ readReg (regs3 Config.hardware) 1 = .ok 0x80000000#32 ∧
    ((31 : Nat) ≤ 31 ∧ DestinationAllowed 0 true (shiftImm .lsl 0x80000000#32 31 true).value) ∧
    ((1 : Nat) ≤ 32 ∧ (32 : Nat) ≤ 32 ∧ DestinationAllowed 15 false (shiftImm .lsr 0x80000000#32 (32 % 32) true).value) ∧
    ((1 : Nat) ≤ 1 ∧ (1 : Nat) ≤ 32 ∧ DestinationAllowed 0 true (shiftImm .asr 0x80000000#32 (1 % 32) true).value) ∧
    ((1 : Nat) ≤ 31 ∧ (31 : Nat) ≤ 31 ∧ DestinationAllowed 0 true (shiftImm .ror 0x80000000#32 31 true).value) ∧
    DestinationAllowed 15 false (BitVec.ofBool true ++ (0x80000000#32).extractLsb' 1 31) := by decide

theorem witness_ShiftsByRegisterComplete :
    conditionPassed .al (regs3 Config.hardware).cpsr = true ∧ (14 : Reg) ≠ 15 ∧ (1 : Reg) ≠ 15 ∧ (2 : Reg) ≠ 15 ∧
    shiftReg .lsl ((regs3 Config.hardware).x 1) (((regs3 Config.hardware).x 2).toNat % 256) true =
      ⟨0x80000000#32, true⟩ := by decide

theorem witness_AddSubRsbComplete :
    OperandsRead .al (regs3 Config.hardware) (some 3) (some 0) (.shImm 1 .lsl 0#5) 1#32 ⟨0x80000000#32, true⟩ ∧
    DestinationAllowed 3 true (1#32 + 0x80000000#32) ∧ DestinationAllowed 3 true (1#32 - 0x80000000#32) ∧
    DestinationAllowed 3 true (0x80000000#32 - 1#32) := by decide

theorem witness_CarryArithmeticCompletes :
    OperandsRead .al (regs3 Config.hardware) (some 3) (some 1) (.shImm 1 .lsl 0#5) 0x80000000#32 ⟨0x80000000#32, true⟩ ∧
    (1 : Nat) = (if (regs3 Config.hardware).cpsr.c = true then 1 else 0) ∧
    DestinationAllowed 15 false (0x80000000#32 + 0x80000000#32 + 0#32) ∧
    DestinationAllowed 3 true (0x80000000#32 + 0x80000000#32 + 1#32) ∧
    DestinationAllowed 15 false (0x80000000#32 - 0x80000000#32 - 0#32) := by decide

theorem witness_TestsComplete :
    OperandsRead .al (regs3 Config.hardware) none (some 1) (.shImm 0 .ror 1#5) 0x80000000#32 ⟨0x80000000#32, true⟩ := by
  decide

theorem witness_ComparesComplete :
    OperandsRead .cs (regs3 plus8) none (some 15) (.shImm 1 .asr 0#5) 0x1008#32 ⟨0xFFFFFFFF#32, true⟩ := by decide

theorem witness_ConditionsAfterCmpCompare :
    OperandsRead .al (regs3 Config.hardware) none (some 1) (.shImm 0 .lsl 0#5) 0x80000000#32 ⟨1#32, true⟩ ∧
    ∃ t, exec (.cmp .al 1 (.shImm 0 .lsl 0#5)) (regs3 Config.hardware) = .next t :=
  ⟨by decide, next_exists (by decide)⟩

/-- One instruction for each clause: a register shift of R15, R15 as Rn, R15 as Rm, MOVS PC. -/
theorem witness_DataProcessingFaultsInOrder :
    (dataOperands (.tst .al 15 (.shReg 1 .lsl 2)) = some ⟨true, none, some 15, .shReg 1 .lsl 2⟩ ∧
      conditionPassed .al (regs3 Config.hardware).cpsr = true) ∧
    (dataOperands (.add .al false 0 15 (.imm 0#4 4#8)) = some ⟨false, some 0, some 15, .imm 0#4 4#8⟩ ∧
      checkRegisterShift (some 0) (some 15) (.imm 0#4 4#8) = .ok () ∧ Config.hardware.pcRead = .unsupported) ∧
    checkRegisterShift (some 0) none (.shImm 15 .lsl 0#5) = .ok () ∧
    (dataOperands (.mov .al true 15 (.shImm 1 .lsl 0#5)) = some ⟨true, some 15, none, .shImm 1 .lsl 0#5⟩ ∧
      operand2 (regs3 Config.hardware) (.shImm 1 .lsl 0#5) = .ok ⟨0x80000000#32, true⟩ ∧
      readRn (regs3 Config.hardware) none = .ok 0#32) := by decide

/-- An aligned and a misaligned result. -/
theorem witness_DataProcessingWriteOfPcJumps :
    OperandsRead .al (regs3 Config.hardware) (some 15) (some 2) (.shImm 0 .lsl 0#5) 0x1000#32 ⟨1#32, true⟩ ∧
    (1 : Nat) = (if (regs3 Config.hardware).cpsr.c = true then 1 else 0) ∧
    wordAligned (0x1000#32 &&& 1#32) = true ∧ wordAligned (0x1000#32 + 1#32) = false := by decide

theorem witness_BranchesComplete :
    conditionPassed .al (regs3 Config.hardware).cpsr = true ∧
    0xFE001008#32 = BitVec.ofInt 32 ((regs3 Config.hardware).pc.toNat + 8 + 4 * (0x800000#24).toInt) := by decide

theorem witness_BranchTargetIsAlignedAndInRange :
    conditionPassed .al (regs3 Config.hardware).cpsr = true ∧ wordAligned (regs3 Config.hardware).pc = true ∧
    ∃ t, exec (.bl .al 0x7FFFFF#24) (regs3 Config.hardware) = .next t :=
  ⟨by decide, by decide, next_exists (by decide)⟩

/-- An aligned word address, and an odd byte address. -/
theorem witness_LoadsComplete :
    (AddressComputed .al (regs3 Config.hardware) true false false 0 2 (.imm 0xFFC#12) 0x1000#32 4#32 ∧
      wordAligned 4#32 = true ∧ memAdmit Config.hardware 4#32 .word .load = true) ∧
    (AddressComputed .al (regs3 plus8) true true false 14 15 (.reg 0 .lsl 0#5) 0x1008#32 0x1009#32 ∧
      memAdmit plus8 0x1009#32 .byte .load = true) := by decide

theorem witness_StoresComplete :
    Memory.wf (withData (regs3 Config.hardware)).mem = true ∧
    (AddressComputed .al (withData (regs3 Config.hardware)) true true false 2 2 (.imm 4#12) 0x1000#32 0x1004#32 ∧
      wordAligned 0x1004#32 = true ∧ memAdmit Config.hardware 0x1004#32 .word .store = true) ∧
    (AddressComputed .al (withData (regs3 Config.hardware)) true true false 1 2 (.imm 0xFFF#12) 0x1000#32 0x1FFF#32 ∧
      memAdmit Config.hardware 0x1FFF#32 .byte .store = true) := by decide

/-- One state for each clause. -/
theorem witness_LoadsAndStoresFaultInOrder :
    conditionPassed .al (regs3 Config.hardware).cpsr = true ∧ offsetNamesPc (.reg 15 .lsl 0#5) = true ∧
    (offsetNamesPc (.imm 4#12) = false ∧ Config.hardware.pcRead = .unsupported) ∧
    (AddressComputed .al (regs3 Config.hardware) true true false 0 2 (.imm 1#12) 0x1000#32 0x1001#32 ∧
      wordAligned 0x1001#32 = false) ∧
    (AddressComputed .al (regs3 (denying 0x1000#32 .word .store)) true true false 0 2 (.imm 0#12) 0x1000#32 0x1000#32 ∧
      wordAligned 0x1000#32 = true ∧ memAdmit (denying 0x1000#32 .word .store) 0x1000#32 .word .store = false) := by
  decide

theorem witness_MultipliesComplete :
    conditionPassed .al (regs3 Config.hardware).cpsr = true ∧ (14 : Reg) ≠ 15 ∧ (0 : Reg) ≠ 15 ∧
    Config.hardware.mulsCv = .draw ∧ (regs3 keepCv).cfg.mulsCv = .unchanged := by decide

theorem witness_MultiplyOfPcFaults :
    conditionPassed .al (regs3 plus8).cpsr = true ∧ ((15 : Reg) = 15 ∨ (0 : Reg) = 15) := by decide

theorem witness_SwiTraps : conditionPassed .cs (regs3 Config.hardware).cpsr = true := by decide

theorem witness_DataProcessingFrame :
    dataOperands (.rsb .al false 3 0 (.shImm 1 .lsl 0#5)) = some ⟨false, some 3, some 0, .shImm 1 .lsl 0#5⟩ ∧
    (∃ t, exec (.rsb .al false 3 0 (.shImm 1 .lsl 0#5)) (regs3 Config.hardware) = .next t) ∧
    isLogical (.lsl .al true 3 1 (.reg 2)) = true ∧
    ∃ t, exec (.lsl .al true 3 1 (.reg 2)) (regs3 Config.hardware) = .next t :=
  ⟨rfl, next_exists (by decide), rfl, next_exists (by decide)⟩

theorem witness_ComparisonsChangeNoRegister :
    ∃ t, exec (.cmn .al 1 (.shReg 1 .lsl 2)) (regs3 Config.hardware) = .next t := next_exists (by decide)

theorem witness_BranchFrame :
    (∃ t, exec (.b .al 0#24) (regs3 Config.hardware) = .next t) ∧
    ∃ t, exec (.bl .al 0#24) (regs3 Config.hardware) = .next t := ⟨next_exists (by decide), next_exists (by decide)⟩

theorem witness_LoadFrame :
    (∃ t, exec (.ldr .al true true false 2 2 (.imm 4#12)) (regs3 Config.hardware) = .next t) ∧
    ∃ t, exec (.ldrb .al true false false 0 2 (.imm 1#12)) (regs3 Config.hardware) = .next t :=
  ⟨next_exists (by decide), next_exists (by decide)⟩

theorem witness_StoreFrame :
    ((∃ t, exec (.str .al true true false 0 2 (.imm 4#12)) (regs3 Config.hardware) = .next t) ∧
      loadStoreAddress (regs3 Config.hardware) true true false 0 2 (.imm 4#12) = .ok 0x1004#32 ∧
      4 ≤ ((0x1008#32 : Word) - 0x1004#32).toNat ∧ 4 ≤ ((0x1003#32 : Word) - 0x1004#32).toNat) ∧
    ((∃ t, exec (.strb .al true true false 0 2 (.imm 5#12)) (regs3 Config.hardware) = .next t) ∧
      loadStoreAddress (regs3 Config.hardware) true true false 0 2 (.imm 5#12) = .ok 0x1005#32 ∧
      (0x1004#32 : Word) ≠ 0x1005#32) :=
  ⟨⟨next_exists (by decide), by decide, by decide, by decide⟩, ⟨next_exists (by decide), by decide, by decide⟩⟩

theorem witness_MultiplyFrame :
    (∃ t, exec (.mul .al true 0 1 2) (regs3 Config.hardware) = .next t) ∧
    ∃ t, exec (.mla .al false 0 0 1 2) (regs3 Config.hardware) = .next t :=
  ⟨next_exists (by decide), next_exists (by decide)⟩

theorem witness_SwiFrame : ∃ t, exec (.swi .al 0xFFFFFF#24) (regs3 Config.hardware) = .next t :=
  next_exists (by decide)

end Sys2Proof.Tests
end

/-! What `exec` and `step` can do when they answer, and the statements of 10_state.md. -/

namespace Sys2Proof.Proofs

open Sys2Proof Sys2Proof.Machine Sys2Proof.Laws

/-! ### Alignment (10_state.md R38, 20_memory.md R66) -/

theorem wordAligned_iff_mod_four {a : Word} : wordAligned a = true ↔ a.toNat % 4 = 0 := by
  simp [wordAligned, ← BitVec.toNat_inj]

theorem wordAligned_add {a b : Word} (ha : wordAligned a = true) (hb : wordAligned b = true) :
    wordAligned (a + b) = true := by
  rw [wordAligned_iff_mod_four] at *
  rw [BitVec.toNat_add]
  omega

theorem wordAligned_shiftLeft_two (a : Word) : wordAligned (a <<< 2) = true := by
  rw [wordAligned_iff_mod_four, BitVec.toNat_shiftLeft, Nat.shiftLeft_eq]
  omega

theorem wordAligned_branchTarget {s : State} (imm24 : BitVec 24) (h : wordAligned s.pc = true) :
    wordAligned (branchTarget s imm24) = true :=
  wordAligned_add (wordAligned_add h (by decide)) (wordAligned_shiftLeft_two _)

/-! ### The flag writes and the write of a result -/

@[simp] theorem withFlags_x (t : State) (set : Bool) (w : Word) (c v : Bool) (q : Reg) :
    (withFlags t set w c v).x q = t.x q := by cases set <;> rfl
@[simp] theorem withFlags_pc (t : State) (set : Bool) (w : Word) (c v : Bool) :
    (withFlags t set w c v).pc = t.pc := withFlags_x t set w c v 15
@[simp] theorem withFlags_mem (t : State) (set : Bool) (w : Word) (c v : Bool) :
    (withFlags t set w c v).mem = t.mem := by cases set <;> rfl
@[simp] theorem withFlags_byteAt (t : State) (set : Bool) (w : Word) (c v : Bool) (q : Word) :
    (withFlags t set w c v).byteAt q = t.byteAt q := by cases set <;> rfl
@[simp] theorem withFlags_trap (t : State) (set : Bool) (w : Word) (c v : Bool) :
    (withFlags t set w c v).trap = t.trap := by cases set <;> rfl
@[simp] theorem withFlags_draws (t : State) (set : Bool) (w : Word) (c v : Bool) :
    (withFlags t set w c v).draws = t.draws := by cases set <;> rfl
@[simp] theorem withFlags_cfg (t : State) (set : Bool) (w : Word) (c v : Bool) :
    (withFlags t set w c v).cfg = t.cfg := by cases set <;> rfl
@[simp] theorem withFlags_low (t : State) (set : Bool) (w : Word) (c v : Bool) :
    (withFlags t set w c v).cpsr.low = t.cpsr.low := by cases set <;> rfl
@[simp] theorem withFlags_false (t : State) (w : Word) (c v : Bool) : withFlags t false w c v = t := rfl
@[simp] theorem withFlags_n (t : State) (w : Word) (c v : Bool) :
    (withFlags t true w c v).cpsr.n = w.getLsbD 31 := rfl
@[simp] theorem withFlags_z (t : State) (w : Word) (c v : Bool) :
    (withFlags t true w c v).cpsr.z = decide (w = 0#32) := rfl

/-- A flag write that repeats the current V keeps it, whether S is set or not. -/
theorem withFlags_v_kept (t : State) (set : Bool) (w : Word) (c : Bool) :
    (withFlags t set w c t.cpsr.v).cpsr.v = t.cpsr.v := by cases set <;> rfl

/-- The next snapshot of a data-processing instruction before its flags: the write of Rd, or for a comparison the bare
advance (R214). -/
def afterResult (s : State) : Option Reg → Word → State
  | some rd, w => afterWrite s rd w
  | none, _ => s.advance

@[simp] theorem afterWrite_x_same (s : State) (rd : Reg) (w : Word) : (afterWrite s rd w).x rd = w := by
  unfold afterWrite
  split
  · next h => rw [h, x_setX_same]
  · exact x_setX_same ..

theorem afterWrite_x_ne {s : State} {rd q : Reg} (w : Word) (h15 : q ≠ 15) (hq : rd ≠ q) :
    (afterWrite s rd w).x q = s.x q := by
  unfold afterWrite
  split
  · exact x_setX_ne s h15.symm w
  · rw [x_setX_ne _ hq, x_setX_ne _ h15.symm]

theorem afterWrite_pc (s : State) (rd : Reg) (w : Word) :
    (afterWrite s rd w).pc = if rd = 15 then w else s.pc + 4#32 := by
  unfold afterWrite
  split
  · exact x_setX_same s 15 w
  · next h => rw [pc_setX_ne _ h]; exact x_setX_same s 15 _

theorem afterResult_x_ne {s : State} {rd : Option Reg} {q : Reg} (w : Word) (h15 : q ≠ 15) (hq : rd ≠ some q) :
    (afterResult s rd w).x q = s.x q := by
  cases rd with
  | none => exact x_advance_ne s h15
  | some r => exact afterWrite_x_ne w h15 fun h => hq (by rw [h])

/-- Before the flags, the registers alone change. -/
theorem afterResult_eq (s : State) (rd : Option Reg) (w : Word) :
    afterResult s rd w = { s with regs := (afterResult s rd w).regs } := by
  cases rd with
  | none => rfl
  | some r => rw [afterResult]; unfold afterWrite; split <;> rfl

@[simp] theorem afterResult_cpsr (s : State) (rd : Option Reg) (w : Word) : (afterResult s rd w).cpsr = s.cpsr := by
  rw [afterResult_eq]
@[simp] theorem afterResult_mem (s : State) (rd : Option Reg) (w : Word) : (afterResult s rd w).mem = s.mem := by
  rw [afterResult_eq]
@[simp] theorem afterResult_trap (s : State) (rd : Option Reg) (w : Word) : (afterResult s rd w).trap = s.trap := by
  rw [afterResult_eq]
@[simp] theorem afterResult_draws (s : State) (rd : Option Reg) (w : Word) :
    (afterResult s rd w).draws = s.draws := by
  rw [afterResult_eq]
@[simp] theorem afterResult_cfg (s : State) (rd : Option Reg) (w : Word) : (afterResult s rd w).cfg = s.cfg := by
  rw [afterResult_eq]
@[simp] theorem afterResult_byteAt (s : State) (rd : Option Reg) (w q : Word) :
    (afterResult s rd w).byteAt q = s.byteAt q := by
  rw [afterResult_eq]; rfl

/-- A result whose write is allowed leaves the PC aligned: it is advanced, or the result itself (R211). -/
theorem wordAligned_afterResult {s : State} {rd : Option Reg} {sf : Bool} {w : Word} (h : wordAligned s.pc = true)
    (hd : ∀ r, rd = some r → DestinationAllowed r sf w) : wordAligned (afterResult s rd w).pc = true := by
  have hadv : wordAligned (s.pc + 4#32) = true := wordAligned_add h (by decide)
  cases rd with
  | none => rwa [afterResult, pc_advance]
  | some r =>
    rw [afterResult, afterWrite_pc]
    split
    · next h15 => exact (hd r rfl h15).2
    · exact hadv

/-- The write of a result is allowed and gives `afterResult` (R211, R214). -/
theorem writeResult_eq_afterResult {s t : State} {rd : Option Reg} {w : Word} {sf : Bool}
    (h : writeResult s rd w sf = .ok t) :
    (∀ r, rd = some r → DestinationAllowed r sf w) ∧ t = afterResult s rd w := by
  obtain ⟨rfl, rfl⟩ | ⟨r, rfl, hd, rfl⟩ := writeResult_ok_iff.mp h
  · exact ⟨nofun, rfl⟩
  · exact ⟨fun _ hr => Option.some.inj hr ▸ hd, rfl⟩

/-! ### The body of a multiply (46_multiply.md R331 to R333) -/

@[simp] theorem multiplyInto_mem (s : State) (sf : Bool) (rd : Reg) (w : Word) :
    (multiplyInto s sf rd w).mem = s.mem := by cases sf <;> simp [multiplyInto]
@[simp] theorem multiplyInto_trap (s : State) (sf : Bool) (rd : Reg) (w : Word) :
    (multiplyInto s sf rd w).trap = s.trap := by cases sf <;> simp [multiplyInto]
@[simp] theorem multiplyInto_cfg (s : State) (sf : Bool) (rd : Reg) (w : Word) :
    (multiplyInto s sf rd w).cfg = s.cfg := by cases sf <;> simp [multiplyInto]

theorem multiplyInto_pc {s : State} {sf : Bool} {rd : Reg} (w : Word) (h : rd ≠ 15) :
    (multiplyInto s sf rd w).pc = s.pc + 4#32 := by
  rw [State.pc, multiplyInto_x, ← State.pc, pc_setX_ne _ h, pc_advance]

/-- N and Z after a multiply with S = 1, under either `MULS_CV` (R333). -/
theorem multiplyInto_n_z (s : State) (rd : Reg) (w : Word) :
    (multiplyInto s true rd w).cpsr.n = w.getLsbD 31 ∧ (multiplyInto s true rd w).cpsr.z = decide (w = 0#32) := by
  simp only [multiplyInto, if_true, State.setMultiplyFlags]
  split <;> simp [setFlags_eq]

/-! ### The data-processing instructions as one (42_data_processing.md R214) -/

/-- What a data-processing instruction or shift mnemonic computes from Rn, operand-2 and the shifter's carry; of no
meaning for the other instructions, which have no `dataOperands`. -/
def aluRule (s : State) (i : Instr) (a b : Word) (shc : Bool) : AluOut :=
  match i with
  | .and .. | .tst .. => logicalOut s (a &&& b) shc
  | .eor .. | .teq .. => logicalOut s (a ^^^ b) shc
  | .sub .. | .cmp .. => addWithCarry a (~~~b) true
  | .rsb .. => addWithCarry b (~~~a) true
  | .add .. | .cmn .. => addWithCarry a b false
  | .adc .. => addWithCarry a b s.cpsr.c
  | .sbc .. => addWithCarry a (~~~b) s.cpsr.c
  | .rsc .. => addWithCarry b (~~~a) s.cpsr.c
  | .orr .. => logicalOut s (a ||| b) shc
  | .bic .. => logicalOut s (a &&& ~~~b) shc
  | .mvn .. => logicalOut s (~~~b) shc
  | _ => logicalOut s b shc

/-- Every instruction with data operands is the shared body of R214 with its own rule, gated by its condition. -/
theorem exec_of_dataOperands {i : Instr} {d : DataOperands} (h : dataOperands i = some d) (s : State) :
    exec i s = whenPassed i.cond s (dataProcessing s d.sf d.rd d.rn d.op2 (aluRule s i)) := by
  cases i <;> cases h <;> rfl

theorem writtenRegister_of_dataOperands {i : Instr} {d : DataOperands} (h : dataOperands i = some d) :
    writtenRegister i = d.rd := by
  cases i <;> cases h <;> rfl

theorem writesFlags_of_dataOperands {i : Instr} {d : DataOperands} (h : dataOperands i = some d) :
    writesFlags i = d.sf := by
  cases i <;> cases h <;> rfl

/-- An instruction that writes no Rd is a comparison, and has S = 1 (R106). -/
theorem sf_or_rd_isNone {i : Instr} {d : DataOperands} (h : dataOperands i = some d) :
    (d.sf || d.rd.isNone) = d.sf := by
  cases i <;> cases h <;> simp

/-- The logical class keeps V (R147). -/
theorem aluRule_overflow_of_isLogical {i : Instr} (h : isLogical i = true) (s : State) (a b : Word) (shc : Bool) :
    (aluRule s i a b shc).overflow = s.cpsr.v := by
  cases i <;> cases h <;> rfl

/-! ### What an instruction can do when it answers -/

/-- The states an instruction whose condition passes can answer from `s`, by class. Which address a load or
store computes and what it reads there is left to `loadInto_ok_iff` and `storeFrom_ok_iff`. -/
inductive Completed (s : State) (i : Instr) : State → Prop
  /-- data processing: the result written where R211 allows it, the flags where S is set -/
  | data {d : DataOperands} {a : Word} {b : Shifted} {out : AluOut} (hd : dataOperands i = some d)
      (hr : OperandsRead i.cond s d.rd d.rn d.op2 a b) (ho : out = aluRule s i a b.value b.carry)
      (hw : ∀ r, d.rd = some r → DestinationAllowed r d.sf out.result) :
      Completed s i (withFlags (afterResult s d.rd out.result) d.sf out.result out.carry out.overflow)
  | branch {c : Cond} {imm24 : BitVec 24} (hi : i = .b c imm24) : Completed s i (s.setPc (branchTarget s imm24))
  | branchLink {c : Cond} {imm24 : BitVec 24} (hi : i = .bl c imm24) :
      Completed s i ((s.setX 14 (s.pc + 4#32)).setPc (branchTarget s imm24))
  | load {rd : Reg} {v : Word} (hw : writtenRegister i = some rd) (hf : writesFlags i = false) (h15 : rd ≠ 15) :
      Completed s i (s.advance.setX rd v)
  | storeWord {a v : Word} (hw : writtenRegister i = none) : Completed s i (s.setWord a v).advance
  | storeByte {a : Word} {b : Byte} (hw : writtenRegister i = none) : Completed s i (s.setByte a b).advance
  | multiply {rd : Reg} {v : Word} (hw : writtenRegister i = some rd) (h15 : rd ≠ 15) :
      Completed s i (multiplyInto s (writesFlags i) rd v)
  | trap {c : Cond} {imm24 : BitVec 24} (hi : i = .swi c imm24) : Completed s i (s.takeTrap (imm24.zeroExtend 32))

theorem completed_of_dataProcessing {i : Instr} {d : DataOperands} {s t : State} (hd : dataOperands i = some d)
    (hc : conditionPassed i.cond s.cpsr = true)
    (h : dataProcessing s d.sf d.rd d.rn d.op2 (aluRule s i) = .ok t) : Completed s i t := by
  obtain ⟨a, b, u, h1, h2, h3, hu, rfl⟩ := dataProcessing_ok_iff.mp h
  obtain ⟨hw, rfl⟩ := writeResult_eq_afterResult hu
  rw [sf_or_rd_isNone hd]
  exact .data hd ⟨hc, h1, h2, h3⟩ rfl hw

theorem completed_of_loadInto {i : Instr} {s t : State} {p u w : Bool} {rd rn : Reg} {off : Offset}
    {f : Word → Except Raise Word} (hw : writtenRegister i = some rd) (hf : writesFlags i = false)
    (h : loadInto s p u w rd rn off f = .ok t) : Completed s i t := by
  obtain ⟨a, v, ha, -, rfl⟩ := loadInto_ok_iff.mp h
  obtain ⟨-, -, h15, -⟩ := loadStoreAddress_ok_iff.mp ha
  exact .load hw hf h15

theorem completed_of_multiply {i : Instr} {s t : State} {sf : Bool} {rd : Reg} {v : Word} {namesPc : Prop}
    [Decidable namesPc] (hw : writtenRegister i = some rd) (hf : writesFlags i = sf) (h15 : rd = 15 → namesPc)
    (h : (if namesPc then .error (.unsupported .pcInMultiply) else .ok (multiplyInto s sf rd v)) =
      (.ok t : Except Raise State)) : Completed s i t := by
  subst hf
  split at h
  · cases h
  · next hn => cases h; exact .multiply hw (mt h15 hn)

theorem gated_next_cases {i : Instr} {s t : State} {handler : Except Raise State}
    (h : whenPassed i.cond s handler = .next t)
    (hk : conditionPassed i.cond s.cpsr = true → handler = .ok t → Completed s i t) :
    (conditionPassed i.cond s.cpsr = false ∧ t = s.advance) ∨
      (conditionPassed i.cond s.cpsr = true ∧ Completed s i t) :=
  (whenPassed_next h).imp_right fun ⟨hc, e⟩ => ⟨hc, hk hc e⟩

/-- Everything an instruction can do when it answers a next state: it is skipped (R143), or completes. -/
theorem exec_next_cases {i : Instr} {s t : State} (h : exec i s = .next t) :
    (conditionPassed i.cond s.cpsr = false ∧ t = s.advance) ∨
      (conditionPassed i.cond s.cpsr = true ∧ Completed s i t) := by
  cases i with
  | b c imm24 => exact gated_next_cases h fun _ e => by cases e; exact .branch rfl
  | bl c imm24 => exact gated_next_cases h fun _ e => by cases e; exact .branchLink rfl
  | ldr c p u w rd rn off => exact gated_next_cases h fun _ => completed_of_loadInto rfl rfl
  | ldrb c p u w rd rn off => exact gated_next_cases h fun _ => completed_of_loadInto rfl rfl
  | str c p u w rd rn off =>
    refine gated_next_cases h fun _ e => ?_
    obtain ⟨a, m, -, hm, rfl⟩ := storeFrom_ok_iff.mp e
    obtain ⟨-, -, rfl⟩ := storeWord_ok_iff.mp hm
    exact .storeWord rfl
  | strb c p u w rd rn off =>
    refine gated_next_cases h fun _ e => ?_
    obtain ⟨a, m, -, hm, rfl⟩ := storeFrom_ok_iff.mp e
    obtain ⟨-, rfl⟩ := storeByte_ok_iff.mp hm
    exact .storeByte rfl
  | mul c sf rd rs rm => exact gated_next_cases h fun _ => completed_of_multiply rfl rfl Or.inl
  | mla c sf rd rn rs rm => exact gated_next_cases h fun _ => completed_of_multiply rfl rfl Or.inl
  | swi c imm24 => exact gated_next_cases h fun _ e => by cases e; exact .trap rfl
  | _ =>
    rw [exec_of_dataOperands rfl] at h
    exact gated_next_cases h (completed_of_dataProcessing rfl)

/-! ### What every instruction keeps -/

theorem exec_keeps_cfg {i : Instr} {s t : State} (h : exec i s = .next t) : t.cfg = s.cfg := by
  obtain ⟨-, rfl⟩ | ⟨-, hd⟩ := exec_next_cases h
  · rfl
  · cases hd <;> simp

theorem exec_keeps_pc_aligned {i : Instr} {s t : State} (h : exec i s = .next t) (ha : wordAligned s.pc = true) :
    wordAligned t.pc = true := by
  have hadv : wordAligned (s.pc + 4#32) = true := wordAligned_add ha (by decide)
  obtain ⟨-, rfl⟩ | ⟨-, hd⟩ := exec_next_cases h
  · rwa [pc_advance]
  · cases hd with
    | data _ _ _ hw => rw [withFlags_pc]; exact wordAligned_afterResult ha hw
    | branch => rw [pc_setPc]; exact wordAligned_branchTarget _ ha
    | branchLink => rw [pc_setPc]; exact wordAligned_branchTarget _ ha
    | load _ _ h15 => rwa [pc_setX_ne _ h15, pc_advance]
    | storeWord => rwa [pc_advance, setWord_pc]
    | storeByte => rwa [pc_advance, setByte_pc]
    | multiply _ h15 => rwa [multiplyInto_pc _ h15]
    | trap => rwa [takeTrap_pc, pc_advance]

theorem exec_keeps_mem_wf {i : Instr} {s t : State} (h : exec i s = .next t) (hm : Memory.wf s.mem = true) :
    Memory.wf t.mem = true := by
  obtain ⟨-, rfl⟩ | ⟨-, hd⟩ := exec_next_cases h
  · exact hm
  · cases hd with
    | storeWord => exact setWord_wf _ _ hm
    | storeByte => exact setByte_wf _ _ hm
    | _ => simpa using hm

/-- The outcome tag is that of the state before, or the code of an SWI that ran (R350). -/
theorem exec_trap_cases {i : Instr} {s t : State} (h : exec i s = .next t) :
    t.trap = s.trap ∨ ∃ c imm24, i = .swi c imm24 ∧ conditionPassed c s.cpsr = true ∧
      t.trap = some (imm24.zeroExtend 32) := by
  obtain ⟨-, rfl⟩ | ⟨hc, hd⟩ := exec_next_cases h
  · exact .inl rfl
  · cases hd with
    | trap hi => subst hi; exact .inr ⟨_, _, rfl, hc, rfl⟩
    | _ => exact .inl (by simp)

/-- A general register that is not the written one keeps its value (R33). -/
theorem exec_keeps_other_registers {i : Instr} {s t : State} {r : Reg} (h : exec i s = .next t) (h15 : r ≠ 15)
    (hr : writtenRegister i ≠ some r) : t.x r = s.x r := by
  obtain ⟨-, rfl⟩ | ⟨-, hd⟩ := exec_next_cases h
  · exact x_advance_ne s h15
  · cases hd with
    | data hd =>
      rw [withFlags_x]
      exact afterResult_x_ne _ h15 (writtenRegister_of_dataOperands hd ▸ hr)
    | branch => exact x_setPc_ne s h15 _
    | branchLink hi =>
      subst hi
      rw [x_setPc_ne _ h15, x_setX_ne _ fun h => hr (congrArg some h)]
    | load hw => rw [x_setX_ne _ fun h => hr (hw.trans (congrArg some h)), x_advance_ne s h15]
    | storeWord => rw [x_advance_ne _ h15, setWord_x]
    | storeByte => rw [x_advance_ne _ h15, setByte_x]
    | multiply hw => rw [multiplyInto_x, x_setX_ne _ fun h => hr (hw.trans (congrArg some h)), x_advance_ne s h15]
    | trap => rw [takeTrap_x, x_advance_ne s h15]

/-! ### What every step keeps -/

/-- A step that answers fetched at an aligned PC, and leaves it aligned (R38, R70). -/
theorem step_next_pc_aligned {s t : State} (h : step s = .next t) : wordAligned t.pc = true := by
  obtain ⟨w, c, hf, -, ⟨-, rfl⟩ | ⟨i, -, -, he⟩⟩ := step_next_cases h
  · rw [pc_advance]
    exact wordAligned_add (fetch_ok_aligned hf) (by decide)
  · exact exec_keeps_pc_aligned he (fetch_ok_aligned hf)

theorem step_keeps_mem_wf {s t : State} (h : step s = .next t) (hm : Memory.wf s.mem = true) :
    Memory.wf t.mem = true := by
  obtain ⟨w, c, -, -, ⟨-, rfl⟩ | ⟨i, -, -, he⟩⟩ := step_next_cases h
  · exact hm
  · exact exec_keeps_mem_wf he hm

theorem trapCodeInRange_zeroExtend (imm24 : BitVec 24) : trapCodeInRange (some (imm24.zeroExtend 32)) = true := by
  have := imm24.isLt
  simp only [trapCodeInRange, decide_eq_true_eq, BitVec.truncate_eq_setWidth, BitVec.toNat_setWidth]
  omega

theorem step_next_trapCodeInRange {s t : State} (h : step s = .next t) : trapCodeInRange t.trap = true := by
  obtain ⟨w, c, -, -, ⟨-, rfl⟩ | ⟨i, -, -, he⟩⟩ := step_next_cases h
  · rfl
  · obtain ht | ⟨c, imm24, -, -, ht⟩ := exec_trap_cases he
    · rw [ht, beginStep_trap]; rfl
    · rw [ht]; exact trapCodeInRange_zeroExtend imm24

/-- Settles O13: the three parts of the invariant, each kept on its own. -/
theorem stepKeepsTheInvariant : Obligations.StepKeepsTheInvariant := by
  intro s t ⟨_, hm, _⟩ h
  exact ⟨step_next_pc_aligned h, step_keeps_mem_wf h hm, step_next_trapCodeInRange h⟩

/-- Settles O17: a skipped word and every instruction keep the parameters. -/
theorem stepKeepsTheParameters : Obligations.StepKeepsTheParameters := by
  intro s t h
  obtain ⟨w, c, -, -, ⟨-, rfl⟩ | ⟨i, -, -, he⟩⟩ := step_next_cases h
  · rfl
  · rw [exec_keeps_cfg he, beginStep_cfg]

/-- Settles O18: the contrapositive of `exec_keeps_other_registers`. -/
theorem onlyTheWrittenRegisterChanges : Obligations.OnlyTheWrittenRegisterChanges := by
  intro i s t r h h15 hne
  by_contra hr
  exact hne (exec_keeps_other_registers h h15 hr)

/-! ### Runs from a launch (10_state.md R38, R50) -/

/-- A property that every step keeps holds at the end of every run. -/
theorem run_keeps {M : Host.Core} {P : M.State → Prop} (hstep : ∀ s t, P s → M.step s = .next t → P t)
    (n : Nat) : ∀ {s t : M.State}, P s → M.run n s = .next t → P t := by
  induction n with
  | zero => intro s t hs h; cases h; exact hs
  | succ n ih =>
    intro s t hs h
    rw [Host.Core.run] at h
    split at h
    · next u hu => exact ih (hstep s u hs hu) h
    · cases h
    · cases h

theorem launch_pc (l : Launch) : (State.launch l).pc = l.entryPc := by
  simp [State.pc, State.x, State.launch, Vector.get_eq_getElem]

theorem launch_x (l : Launch) {k : Nat} (h : k < 15) :
    (State.launch l).x ⟨k, Nat.lt_succ_of_lt h⟩ = l.initRegs[k] := by
  simp [State.x, State.launch, Vector.get_eq_getElem, h]

/-- A fetch from an unaligned PC faults, from data memory and from a separate image alike (R70). -/
theorem fetch_misaligned {s : State} (h : wordAligned s.pc = false) :
    fetch s = .error (.memory .misaligned s.pc) := by
  unfold fetch
  cases s.cfg.codeMem with
  | unified => simp [checkAccess, h]
  | separate => simp [h]

theorem step_misaligned {s : State} (h : wordAligned s.pc = false) :
    step s = .fault (.memoryFault .misaligned none s.pc s.pc) := by
  have hf : fetch s.beginStep = .error (.memory .misaligned s.pc) := fetch_misaligned h
  simp [step, stepOnce, hf, Raise.toFault]

/-- Settles O15: `run_keeps` with the alignment of the PC, and the fetch's check of it. -/
theorem pcIsAlignedInEveryReachedState : Obligations.PcIsAlignedInEveryReachedState := by
  refine ⟨fun l n t ha h => ?_, fun s h => step_misaligned h⟩
  exact run_keeps (M := Sys2Proof.core) (P := fun s : State => wordAligned s.pc = true)
    (fun s t _ => step_next_pc_aligned) n (by rwa [launch_pc]) h

/-- Settles O14: the launch values field by field. -/
theorem launchMeetsTheInvariant : Obligations.LaunchMeetsTheInvariant := by
  refine ⟨by decide, fun l ⟨ha, hm⟩ => ?_⟩
  have hinv : (State.launch l).Inv := ⟨by rwa [launch_pc], hm, rfl⟩
  exact ⟨hinv, launch_pc l, fun _ h => launch_x l h, rfl, rfl, rfl, rfl, rfl, rfl⟩

/-- Settles O30: the three branches of `readReg`. -/
theorem operandReadOfEveryRegister : Obligations.OperandReadOfEveryRegister := by
  intro s r
  exact ⟨fun h => if_pos h, fun h => by simp [readReg, h], fun h => by simp [readReg, h]⟩

/-! ### Flags after a write (10_state.md R40, R41) and the data-processing frame -/

/-- Settles O20: of the instructions that set flags and write a register only data processing and the multiplies are
left, and each takes N and Z from the word it writes. -/
theorem nAndZFollowTheWrittenResult : Obligations.NAndZFollowTheWrittenResult := by
  intro i s t rd hc hf hrd h
  obtain ⟨hn, -⟩ | ⟨-, hd⟩ := exec_next_cases h
  · rw [hc] at hn; cases hn
  · cases hd with
    | data hd =>
      rw [writtenRegister_of_dataOperands hd] at hrd
      rw [writesFlags_of_dataOperands hd] at hf
      simp [hrd, hf, afterResult]
    | branch hi => subst hi; cases hrd
    | branchLink hi => subst hi; cases hf
    | load _ hf' => rw [hf] at hf'; cases hf'
    | storeWord hw => rw [hrd] at hw; cases hw
    | storeByte hw => rw [hrd] at hw; cases hw
    | multiply hw =>
      obtain rfl := Option.some.inj (hw.symm.trans hrd)
      rw [hf, multiplyInto_x, x_setX_same]
      obtain ⟨hn, hz⟩ := multiplyInto_n_z s _ _
      exact ⟨hn, by rw [hz, decide_eq_true_eq]⟩
    | trap hi => subst hi; cases hrd

/-- Settles O54: skipped, the instruction only advances the PC; completed, it writes Rd and its flags. -/
theorem dataProcessingFrame : Obligations.DataProcessingFrame := by
  intro i d s t hd h
  rw [exec_of_dataOperands hd] at h
  obtain ⟨-, rfl⟩ | ⟨-, e⟩ := whenPassed_next h
  · exact ⟨fun r h15 _ => x_advance_ne s h15, fun _ => rfl, fun _ => rfl, rfl, fun _ => rfl, rfl, rfl, rfl⟩
  · obtain ⟨a, b, u, -, -, -, hu, rfl⟩ := dataProcessing_ok_iff.mp e
    obtain ⟨-, rfl⟩ := writeResult_eq_afterResult hu
    rw [sf_or_rd_isNone hd]
    refine ⟨fun r h15 hr => ?_, fun hsf => ?_, fun hl => ?_, by simp, by simp [SameOutside]⟩
    · rw [withFlags_x, afterResult_x_ne _ h15 hr]
    · rw [hsf, withFlags_false, afterResult_cpsr]
    · rw [aluRule_overflow_of_isLogical hl]
      simpa using withFlags_v_kept (afterResult s d.rd _) d.sf _ _

/-! ### Bits 27:0 of the CPSR (10_state.md R39): each shared operation on a state with other such bits -/

section LowBits

variable (s : State) (low : BitVec 28)

theorem conditionPassed_withCpsrLow (c : Cond) :
    conditionPassed c (s.withCpsrLow low).cpsr = conditionPassed c s.cpsr := by
  cases c <;> rfl

theorem fetch_withCpsrLow : fetch (s.withCpsrLow low) = fetch s := rfl

theorem readReg_withCpsrLow (r : Reg) : readReg (s.withCpsrLow low) r = readReg s r := rfl

theorem operand2_withCpsrLow (op2 : Operand2) : operand2 (s.withCpsrLow low) op2 = operand2 s op2 := by
  cases op2 <;> rfl

theorem aluRule_withCpsrLow (i : Instr) : aluRule (s.withCpsrLow low) i = aluRule s i := by
  cases i <;> rfl

/-- The gate commutes with other low bits when its handler does. -/
theorem whenPassed_withCpsrLow {c : Cond} {h h' : Except Raise State} (e : h' = h.map (·.withCpsrLow low)) :
    whenPassed c (s.withCpsrLow low) h' = onNext (·.withCpsrLow low) (whenPassed c s h) := by
  unfold whenPassed
  rw [conditionPassed_withCpsrLow, e]
  split
  · cases h <;> rfl
  · rfl

theorem writeRd_withCpsrLow (rd : Reg) (w : Word) (sf : Bool) :
    writeRd (s.withCpsrLow low) rd w sf = (writeRd s rd w sf).map (·.withCpsrLow low) := by
  unfold writeRd
  repeat' split
  all_goals rfl

theorem writeResult_withCpsrLow (rd : Option Reg) (w : Word) (sf : Bool) :
    writeResult (s.withCpsrLow low) rd w sf = (writeResult s rd w sf).map (·.withCpsrLow low) := by
  cases rd with
  | none => rfl
  | some r => exact writeRd_withCpsrLow s low r w sf

theorem dataProcessing_withCpsrLow (sf : Bool) (rd rn : Option Reg) (op2 : Operand2)
    (f : Word → Word → Bool → AluOut) :
    dataProcessing (s.withCpsrLow low) sf rd rn op2 f =
      (dataProcessing s sf rd rn op2 f).map (·.withCpsrLow low) := by
  have hrn : readRn (s.withCpsrLow low) rn = readRn s rn := by cases rn <;> rfl
  unfold dataProcessing
  simp only [operand2_withCpsrLow, hrn, writeResult_withCpsrLow]
  cases checkRegisterShift rd rn op2 with
  | error r => rfl
  | ok _ =>
    cases operand2 s op2 with
    | error r => rfl
    | ok b =>
      cases readRn s rn with
      | error r => rfl
      | ok a =>
        dsimp only
        cases writeResult s rd (f a b.value b.carry).result sf with
        | error r => rfl
        | ok u => dsimp only [Except.map]; split <;> rfl

theorem loadStoreAddress_withCpsrLow (p u w : Bool) (rd rn : Reg) (off : Offset) :
    loadStoreAddress (s.withCpsrLow low) p u w rd rn off = loadStoreAddress s p u w rd rn off := by
  cases off <;> rfl

theorem loadInto_withCpsrLow (p u w : Bool) (rd rn : Reg) (off : Offset) (f : Word → Except Raise Word) :
    loadInto (s.withCpsrLow low) p u w rd rn off f = (loadInto s p u w rd rn off f).map (·.withCpsrLow low) := by
  unfold loadInto
  rw [loadStoreAddress_withCpsrLow]
  cases loadStoreAddress s p u w rd rn off with
  | error r => rfl
  | ok a => dsimp only; cases f a <;> rfl

/-- A store commutes with other low bits when its access does. -/
theorem storeFrom_withCpsrLow {p u w : Bool} {rd rn : Reg} {off : Offset} {f f' : Word → Except Raise State}
    (hf : ∀ a, f' a = (f a).map (·.withCpsrLow low)) :
    storeFrom (s.withCpsrLow low) p u w rd rn off f' = (storeFrom s p u w rd rn off f).map (·.withCpsrLow low) := by
  unfold storeFrom
  rw [loadStoreAddress_withCpsrLow]
  cases loadStoreAddress s p u w rd rn off with
  | error r => rfl
  | ok a => dsimp only; rw [hf]; cases f a <;> rfl

theorem storeWord_withCpsrLow (a v : Word) :
    storeWord (s.withCpsrLow low) a v = (storeWord s a v).map (·.withCpsrLow low) := by
  unfold storeWord
  rw [withCpsrLow_cfg]
  cases checkAccess s.cfg a .word .store <;> rfl

theorem storeByte_withCpsrLow (a : Word) (b : Byte) :
    storeByte (s.withCpsrLow low) a b = (storeByte s a b).map (·.withCpsrLow low) := by
  unfold storeByte
  rw [withCpsrLow_cfg]
  cases checkAccess s.cfg a .byte .store <;> rfl

theorem multiplyInto_withCpsrLow (sf : Bool) (rd : Reg) (w : Word) :
    multiplyInto (s.withCpsrLow low) sf rd w = (multiplyInto s sf rd w).withCpsrLow low := by
  cases sf with
  | false => rfl
  | true =>
    simp only [multiplyInto, State.setMultiplyFlags, if_true, setX_cfg, advance_cfg, withCpsrLow_cfg]
    cases s.cfg.mulsCv <;> rfl

theorem exec_withCpsrLow (i : Instr) :
    exec i (s.withCpsrLow low) = onNext (·.withCpsrLow low) (exec i s) := by
  cases i with
  | b c imm24 => exact whenPassed_withCpsrLow s low rfl
  | bl c imm24 => exact whenPassed_withCpsrLow s low rfl
  | ldr c p u w rd rn off => exact whenPassed_withCpsrLow s low (loadInto_withCpsrLow s low ..)
  | ldrb c p u w rd rn off => exact whenPassed_withCpsrLow s low (loadInto_withCpsrLow s low ..)
  | str c p u w rd rn off =>
    exact whenPassed_withCpsrLow s low (storeFrom_withCpsrLow s low fun a => storeWord_withCpsrLow s low a _)
  | strb c p u w rd rn off =>
    exact whenPassed_withCpsrLow s low (storeFrom_withCpsrLow s low fun a => storeByte_withCpsrLow s low a _)
  | mul c sf rd rs rm =>
    refine whenPassed_withCpsrLow s low ?_
    rw [multiplyInto_withCpsrLow]
    split <;> rfl
  | mla c sf rd rn rs rm =>
    refine whenPassed_withCpsrLow s low ?_
    rw [multiplyInto_withCpsrLow]
    split <;> rfl
  | swi c imm24 => exact whenPassed_withCpsrLow s low rfl
  | _ =>
    rw [exec_of_dataOperands rfl, exec_of_dataOperands rfl, aluRule_withCpsrLow]
    exact whenPassed_withCpsrLow s low (dataProcessing_withCpsrLow s low ..)

theorem nameWord_onNext (w : Word) (f : State → State) (o : Host.Outcome State Fault Refusal) :
    nameWord w (onNext f o) = onNext f (nameWord w o) := by
  cases o <;> rfl

theorem executeOne_withCpsrLow (w : Word) :
    executeOne (s.withCpsrLow low) w = onNext (·.withCpsrLow low) (executeOne s w) := by
  unfold executeOne
  cases condOfBits (fieldOf w 28 4) with
  | none => rfl
  | some c =>
    dsimp only
    rw [conditionPassed_withCpsrLow, withCpsrLow_cfg]
    split
    · rfl
    · cases decodeClass s.cfg c w with
      | error r => rfl
      | ok i => dsimp only; rw [exec_withCpsrLow, nameWord_onNext]

end LowBits

/-- Settles O16: the fetch does not see the bits, and `ExecuteOne` commutes with changing them. -/
theorem cpsrLowBitsAreInert : Obligations.CpsrLowBitsAreInert := by
  intro s low
  have hb : (s.withCpsrLow low).beginStep = s.beginStep.withCpsrLow low := rfl
  unfold step stepOnce
  rw [hb, fetch_withCpsrLow]
  cases fetch s.beginStep with
  | error r => rfl
  | ok w => exact executeOne_withCpsrLow s.beginStep low w

end Sys2Proof.Proofs

/-! Words and bytes of memory, the fetch, and the statements of 20_memory.md. -/

namespace Sys2Proof.Proofs

open Sys2Proof Sys2Proof.Machine Sys2Proof.Laws

/-! ### Words as views of bytes (20_memory.md R62, R63, R69) -/

@[simp] theorem setX_wordAt (s : State) (r : Reg) (v a : Word) : (s.setX r v).wordAt a = s.wordAt a := rfl
@[simp] theorem advance_wordAt (s : State) (a : Word) : s.advance.wordAt a = s.wordAt a := rfl

/-- Bit `j` of a word is bit `j % 8` of its byte `j / 8`. -/
theorem getLsbD_wordOfBytes (b : Nat → Byte) {j : Nat} (hj : j < 32) :
    (wordOfBytes (b 0) (b 1) (b 2) (b 3)).getLsbD j = (b (j / 8)).getLsbD (j % 8) := by
  obtain ⟨k, i, hk, hi, rfl⟩ : ∃ k i, k < 4 ∧ i < 8 ∧ j = 8 * k + i := ⟨j / 8, j % 8, by omega⟩
  rw [show (8 * k + i) / 8 = k by omega, show (8 * k + i) % 8 = i by omega]
  simp only [wordOfBytes, BitVec.getLsbD_append]
  interval_cases k <;> grind

/-- The word at `a` holds byte `a + k` in its bits 8k+7:8k. -/
theorem getLsbD_wordAt (s : State) (a : Word) {j : Nat} (hj : j < 32) :
    (s.wordAt a).getLsbD j = (s.byteAt (a + BitVec.ofNat 32 (j / 8))).getLsbD (j % 8) := by
  simpa [State.wordAt] using getLsbD_wordOfBytes (fun k => s.byteAt (a + BitVec.ofNat 32 k)) hj

/-- A word write puts bits 8k+7:8k of the word at `a + k`, wrapping at the top of memory. -/
theorem byteAt_setWord_add {s : State} (a v : Word) (h : Memory.wf s.mem = true) {k : Nat} (hk : k < 4) :
    (s.setWord a v).byteAt (a + BitVec.ofNat 32 k) = byteOfWord v k := by
  have h1 := setByte_wf a (byteOfWord v 0) h
  have h2 := setByte_wf (a + 1#32) (byteOfWord v 1) h1
  have h3 := setByte_wf (a + 2#32) (byteOfWord v 2) h2
  rw [State.setWord, byteAt_setByte _ _ _ h3, byteAt_setByte _ _ _ h2, byteAt_setByte _ _ _ h1, byteAt_setByte _ _ _ h]
  interval_cases k <;> simp

theorem byteAt_setWord {s : State} (a v b : Word) (h : Memory.wf s.mem = true) :
    (s.setWord a v).byteAt b = if (b - a).toNat < 4 then byteOfWord v (b - a).toNat else s.byteAt b := by
  split
  · next hb =>
    have hadd : a + BitVec.ofNat 32 (b - a).toNat = b := by
      rw [BitVec.ofNat_toNat, BitVec.setWidth_eq, add_sub_cancel]
    simpa only [hadd] using byteAt_setWord_add a v h hb
  · next hb => exact byteAt_setWord_ne s v (Nat.le_of_not_lt hb)

theorem wordAt_setWord {s : State} (a v : Word) (h : Memory.wf s.mem = true) : (s.setWord a v).wordAt a = v := by
  refine BitVec.eq_of_getLsbD_eq fun j hj => ?_
  rw [getLsbD_wordAt _ _ hj, byteAt_setWord_add a v h (by omega), byteOfWord, BitVec.getLsbD_extractLsb',
    Nat.div_add_mod]
  simp [Nat.mod_lt]

/-- A byte write inside the word at `a` replaces the bits of that byte. -/
theorem getLsbD_wordAt_setByte {s : State} (a : Word) (d : Byte) (h : Memory.wf s.mem = true) {k j : Nat}
    (hk : k < 4) (hj : j < 32) :
    ((s.setByte (a + BitVec.ofNat 32 k) d).wordAt a).getLsbD j =
      if 8 * k ≤ j ∧ j < 8 * k + 8 then d.getLsbD (j - 8 * k) else (s.wordAt a).getLsbD j := by
  have hbyte : a + BitVec.ofNat 32 k = a + BitVec.ofNat 32 (j / 8) ↔ 8 * k ≤ j ∧ j < 8 * k + 8 := by
    rw [BitVec.add_right_inj, ← BitVec.toNat_inj, BitVec.toNat_ofNat, BitVec.toNat_ofNat]
    omega
  rw [getLsbD_wordAt _ _ hj, getLsbD_wordAt _ _ hj, byteAt_setByte _ _ _ h]
  simp only [hbyte]
  split
  · next hin => rw [show j % 8 = j - 8 * k by omega]
  · rfl

/-- Settles O25: the bytes of a word write, the word read back bit by bit, and a byte write seen in the word. -/
theorem wordsAndBytesViewTheSameMemory : Obligations.WordsAndBytesViewTheSameMemory := by
  intro s a v h
  exact ⟨fun b => byteAt_setWord a v b h, wordAt_setWord a v h,
    fun k d _ hj => getLsbD_wordAt_setByte a d h k.isLt hj⟩

/-! ### The fetch, case by case (20_memory.md R70) -/

theorem fetch_unified_rejected {s : State} (ha : wordAligned s.pc = true) (hu : s.cfg.codeMem = .unified)
    (hm : memAdmit s.cfg s.pc .word .fetch = false) : fetch s = .error (.memory .rejected s.pc) := by
  simp [fetch, hu, checkAccess, ha, hm]

theorem fetch_unified_admitted {s : State} (ha : wordAligned s.pc = true) (hu : s.cfg.codeMem = .unified)
    (hm : memAdmit s.cfg s.pc .word .fetch = true) : fetch s = .ok (s.wordAt s.pc) := by
  simp [fetch, hu, checkAccess_ok_iff.mpr ⟨fun _ => ha, hm⟩]

theorem fetch_separate_absent {s : State} (ha : wordAligned s.pc = true) (hs : s.cfg.codeMem = .separate)
    (hp : progAt s.cfg.prog s.pc = none) : fetch s = .error (.memory .rejected s.pc) := by
  simp [fetch, hs, ha, hp]

theorem fetch_separate_present {s : State} {w : Word} (ha : wordAligned s.pc = true)
    (hs : s.cfg.codeMem = .separate) (hp : progAt s.cfg.prog s.pc = some w) : fetch s = .ok w := by
  simp [fetch, hs, ha, hp]

/-- A fetch from a separate image depends on the parameters and the PC alone, not on memory (R405). -/
theorem fetch_separate_congr {s t : State} (hs : s.cfg.codeMem = .separate) (hcfg : t.cfg = s.cfg)
    (hpc : t.pc = s.pc) : fetch t = fetch s := by
  simp [fetch, hcfg, hpc, hs]

/-- The fetch at an admitted, aligned address the PC is set to. -/
theorem fetch_setX_pc_unified {t : State} {a : Word} (ha : wordAligned a = true) (hu : t.cfg.codeMem = .unified)
    (hm : memAdmit t.cfg a .word .fetch = true) : fetch (t.setX 15 a) = .ok (t.wordAt a) := by
  have hpc : (t.setX 15 a).pc = a := x_setX_same t 15 a
  have hf := fetch_unified_admitted (s := t.setX 15 a) (by rwa [hpc]) hu (by rwa [hpc])
  rwa [hpc] at hf

/-- A fetch that raises is the fault of the step, with no word (R151). -/
theorem step_of_fetch_error {s : State} {r : Raise} (h : fetch s = .error r) :
    step s = .fault (r.toFault none s.pc) := by
  have hb : fetch s.beginStep = .error r := h
  simp [step, stepOnce, hb]

/-- Settles O9: an unaligned PC, then the two outcomes of each kind of code memory. -/
theorem fetchFollowsTheRule : Obligations.FetchFollowsTheRule := by
  intro s
  exact ⟨step_misaligned,
    fun ha hu hm => step_of_fetch_error (fetch_unified_rejected ha hu hm),
    fetch_unified_admitted,
    fun ha hs hp => step_of_fetch_error (fetch_separate_absent ha hs hp),
    fun _ => fetch_separate_present⟩

/-! ### What the fetch sees of a store (20_memory.md R75, 70_reset_and_hazards.md R405) -/

theorem loadStoreAddress_of_addressComputed {c : Cond} {s : State} {p u w : Bool} {rd rn : Reg} {off : Offset}
    {base a : Word} (h : AddressComputed c s p u w rd rn off base a) : loadStoreAddress s p u w rd rn off = .ok a := by
  obtain ⟨-, hp, hw, hrd, hoff, hbase, ha⟩ := h
  exact loadStoreAddress_ok_iff.mpr ⟨hp, hw, hrd, hoff, base, hbase, ha⟩

/-- An STR that ran stored Rd at its computed address, which is aligned, and advanced the PC (R311). -/
theorem exec_str_next {c : Cond} {s t : State} {p u w : Bool} {rd rn : Reg} {off : Offset} {a : Word}
    (hc : conditionPassed c s.cpsr = true) (ha : loadStoreAddress s p u w rd rn off = .ok a)
    (h : exec (.str c p u w rd rn off) s = .next t) :
    wordAligned a = true ∧ t = (s.setWord a (s.x rd)).advance := by
  obtain ⟨hn, -⟩ | ⟨-, e⟩ := whenPassed_next h
  · rw [hc] at hn; cases hn
  · obtain ⟨a', m, ha', hm, rfl⟩ := storeFrom_ok_iff.mp e
    obtain rfl : a = a' := Except.ok.inj (ha.symm.trans ha')
    obtain ⟨hal, -, rfl⟩ := storeWord_ok_iff.mp hm
    exact ⟨hal, rfl⟩

/-- Settles O26: under UNIFIED the fetch reads the stored word back; under SEPARATE it does not read memory. -/
theorem storeIsSeenByFetchOnlyIfUnified : Obligations.StoreIsSeenByFetchOnlyIfUnified := by
  intro s t c p u w rd rn off base a hwf haddr h
  obtain ⟨hal, rfl⟩ := exec_str_next haddr.1 (loadStoreAddress_of_addressComputed haddr) h
  refine ⟨fun hu hm => ?_, fun hs pc => ?_⟩
  · have hf := fetch_setX_pc_unified (t := (s.setWord a (s.x rd)).advance) hal hu hm
    rwa [advance_wordAt, wordAt_setWord a _ hwf] at hf
  · exact fetch_separate_congr hs rfl ((x_setX_same _ 15 pc).trans (x_setX_same _ 15 pc).symm)

end Sys2Proof.Proofs

/-! The decoder and the encoder, the step of a word by what it decodes to, and the statements of 30_encoding.md. -/

namespace Sys2Proof.Proofs

open Sys2Proof Sys2Proof.Machine Sys2Proof.Laws

/-! ### Fields of a word (30_encoding.md R91)

The rules for appended words leave the total width out of their index, so that `simp` finds them in an encoder's word,
whose width is written 32 and not as a sum. -/

@[simp] theorem extractLsb'_append_low {m n lo len : Nat} (x : BitVec m) (y : BitVec n) (h : lo + len ≤ n) :
    (HAppend.hAppend (γ := BitVec (no_index _)) x y).extractLsb' lo len = y.extractLsb' lo len :=
  fieldOf_append_low x y h

@[simp] theorem extractLsb'_append_high {m n lo len : Nat} (x : BitVec m) (y : BitVec n) (h : n ≤ lo) :
    (HAppend.hAppend (γ := BitVec (no_index _)) x y).extractLsb' lo len = x.extractLsb' (lo - n) len :=
  BitVec.extractLsb'_append_eq_of_le h

/-- Two adjacent fields make one. -/
@[simp] theorem fieldOf_append_fieldOf {w : Word} {hi lo m n : Nat} (h : hi = lo + n) :
    HAppend.hAppend (γ := BitVec (no_index _)) (fieldOf w hi m) (fieldOf w lo n) = fieldOf w lo (m + n) :=
  BitVec.extractLsb'_append_extractLsb'_eq_extractLsb' h

@[simp] theorem fieldOf_all (w : Word) : fieldOf w 0 32 = w := BitVec.extractLsb'_eq_self

/-- A word and a mask of adjacent fields are combined field by field. -/
theorem append_and_append {m n : Nat} {x a x' : BitVec m} {y b y' : BitVec n} (hx : x &&& a = x')
    (hy : y &&& b = y') : (x ++ y) &&& (a ++ b) = x' ++ y' := by
  rw [BitVec.and_append, hx, hy]

theorem bitOf_eq_fieldOf (w : Word) (i : Nat) : bitOf w i = (fieldOf w i 1 == 1#1) :=
  BitVec.getLsbD_eq_extractLsb' w i

@[simp] theorem flagBit_beq_one (b : Bool) : (flagBit b == 1#1) = b := by cases b <;> rfl

theorem flagBit_beq_one_self : ∀ b : BitVec 1, flagBit (b == 1#1) = b := by decide

/-- A flag's bit is the one-bit field it was read from. -/
@[simp] theorem flagBit_bitOf (w : Word) (i : Nat) : flagBit (bitOf w i) = fieldOf w i 1 := by
  rw [bitOf_eq_fieldOf, flagBit_beq_one_self]

@[simp] theorem fieldOf_zero_iff {w : Word} {lo : Nat} {b : BitVec 0} : fieldOf w lo 0 = b ↔ True :=
  iff_true_intro (Subsingleton.elim _ _)

/-- A test of a field is a test of each of its bits. -/
theorem fieldOf_succ_iff {w : Word} {lo n : Nat} {b : BitVec (n + 1)} :
    fieldOf w lo (n + 1) = b ↔ bitOf w lo = b.getLsbD 0 ∧ fieldOf w (lo + 1) n = b.extractLsb' 1 n := by
  simp only [BitVec.eq_of_getLsbD_eq_iff, fieldOf, bitOf, BitVec.getLsbD_extractLsb', Nat.forall_lt_succ_left']
  simp +contextual [Nat.add_right_comm, Nat.add_assoc, Nat.add_comm 1]

theorem bitVec_two_cases : ∀ b : BitVec 2, b = 0b00#2 ∨ b = 0b01#2 ∨ b = 0b10#2 ∨ b = 0b11#2 := by decide

/-! ### The classes of words, each by its own bits (30_encoding.md R97, R105 to R107)

Bit by bit, the fields that fix a class refute the tests that stand before it in the order of R97. -/

section
variable {cfg : Config} {c : Cond} {w : Word}

theorem decodeWord_eq_decodeClass (h : condOfBits (fieldOf w 28 4) = some c) :
    decodeWord cfg w = decodeClass cfg c w := by
  rw [decodeWord, h]

/-- A word that decodes has a condition, and is admitted by its class (R110). -/
theorem decodeClass_of_decodeWord_ok {i : Instr} (h : decodeWord cfg w = .ok i) :
    ∃ c, condOfBits (fieldOf w 28 4) = some c ∧ decodeClass cfg c w = .ok i := by
  unfold decodeWord at h
  split at h
  · cases h
  · next c hc => exact ⟨c, hc, h⟩

theorem decodeClass_swi (h : fieldOf w 24 4 = 0b1111#4) : decodeClass cfg c w = .ok (.swi c (fieldOf w 0 24)) :=
  if_pos h

theorem decodeClass_coprocessor (h : fieldOf w 24 4 = 0b1110#4 ∨ fieldOf w 25 3 = 0b110#3) :
    decodeClass cfg c w = .error .coprocessor := by
  obtain h | h := h <;> simp_all [decodeClass, fieldOf_succ_iff]

theorem decodeClass_branch (h : fieldOf w 25 3 = 0b101#3) :
    decodeClass cfg c w = .ok (if bitOf w 24 then .bl c (fieldOf w 0 24) else .b c (fieldOf w 0 24)) := by
  cases h24 : bitOf w 24 <;> simp_all [decodeClass, fieldOf_succ_iff]

theorem decodeClass_blockTransfer (h : fieldOf w 25 3 = 0b100#3) :
    decodeClass cfg c w = .error .blockTransfer := by
  simp_all [decodeClass, fieldOf_succ_iff]

theorem decodeClass_undefinedSpace (h : fieldOf w 25 3 = 0b011#3) (h4 : bitOf w 4 = true) :
    decodeClass cfg c w = .error .undefinedSpace := by
  simp_all [decodeClass, fieldOf_succ_iff]

theorem decodeClass_loadStore (h : fieldOf w 26 2 = 0b01#2) (h4 : ¬(bitOf w 25 = true ∧ bitOf w 4 = true)) :
    decodeClass cfg c w = .ok (decodeLoadStore cfg c w) := by
  simp_all [decodeClass, fieldOf_succ_iff]

theorem decodeClass_multiply (h : fieldOf w 22 6 = 0b000000#6) (h4 : fieldOf w 4 4 = 0b1001#4) :
    decodeClass cfg c w = .ok (decodeMultiply c w) := by
  simp_all [decodeClass, fieldOf_succ_iff]

theorem decodeClass_reservedBit7Bit4 (h : fieldOf w 25 3 = 0b000#3) (h7 : bitOf w 7 = true) (h4 : bitOf w 4 = true)
    (hm : ¬(fieldOf w 22 6 = 0b000000#6 ∧ fieldOf w 4 4 = 0b1001#4)) :
    decodeClass cfg c w = .error .reservedBit7Bit4 := by
  simp_all [decodeClass, fieldOf_succ_iff]

theorem decodeClass_dataProcessing (h : fieldOf w 26 2 = 0b00#2)
    (h4 : ¬(bitOf w 25 = false ∧ bitOf w 7 = true ∧ bitOf w 4 = true)) :
    decodeClass cfg c w = decodeDataProcessing cfg c w := by
  simp_all [decodeClass, fieldOf_succ_iff]

/-- The opcodes of the comparisons need S = 1 (R106). -/
theorem decodeDataProcessing_compareWithoutS (h : fieldOf w 23 2 = 0b10#2) (hs : bitOf w 20 = false) :
    decodeDataProcessing cfg c w = .error .compareWithoutS := by
  have hop : fieldOf w 21 4 = 0b10#2 ++ fieldOf w 21 2 := by rw [← h]; simp
  obtain h0 | h0 | h0 | h0 := bitVec_two_cases (fieldOf w 21 2) <;> simp [decodeDataProcessing, hop, h0, hs]

theorem decodeDataProcessing_rsb (h : fieldOf w 21 4 = 0b0011#4) :
    decodeDataProcessing cfg c w =
      if cfg.admitRsbRsc then
        .ok (.rsb c (bitOf w 20) (decodeRd cfg.regLayout w) (decodeRn cfg.regLayout w) (decodeOperand2 w))
      else .error .rsbRscNotAdmitted := by
  rw [decodeDataProcessing, h]; rfl

theorem decodeDataProcessing_rsc (h : fieldOf w 21 4 = 0b0111#4) :
    decodeDataProcessing cfg c w =
      if cfg.admitRsbRsc then
        .ok (.rsc c (bitOf w 20) (decodeRd cfg.regLayout w) (decodeRn cfg.regLayout w) (decodeOperand2 w))
      else .error .rsbRscNotAdmitted := by
  rw [decodeDataProcessing, h]; rfl

end

/-! ### The data-processing format (30_encoding.md R99) -/

section
variable (cfg : Config) (lay : RegLayout) (c : Cond) (opcode : BitVec 4) (sf : Bool) (rd rn : BitVec 4)
  (op2 : Operand2)

@[simp] theorem opcode_encodeDataProcessing :
    fieldOf (encodeDataProcessing lay c opcode sf rd rn op2) 21 4 = opcode := by
  simp [fieldOf, encodeDataProcessing]

@[simp] theorem sBit_encodeDataProcessing : bitOf (encodeDataProcessing lay c opcode sf rd rn op2) 20 = sf := by
  simp [bitOf_eq_fieldOf, fieldOf, encodeDataProcessing]

@[simp] theorem decodeRd_encodeDataProcessing :
    decodeRd lay (encodeDataProcessing lay c opcode sf rd rn op2) = regOfBits rd := by
  cases lay <;> simp [decodeRd, fieldOf, encodeDataProcessing, rdRnBits]

@[simp] theorem decodeRn_encodeDataProcessing :
    decodeRn lay (encodeDataProcessing lay c opcode sf rd rn op2) = regOfBits rn := by
  cases lay <;> simp [decodeRn, fieldOf, encodeDataProcessing, rdRnBits]

@[simp] theorem decodeOperand2_encodeDataProcessing :
    decodeOperand2 (encodeDataProcessing lay c opcode sf rd rn op2) = op2 := by
  cases op2 <;> simp [decodeOperand2, bitOf_eq_fieldOf, fieldOf, encodeDataProcessing, operand2Bits]

/-- No operand-2 form lies in the space of R103, bits 7 and 4 set with bit 25 clear (R94). -/
@[simp] theorem decodeWord_encodeDataProcessing :
    decodeWord cfg (encodeDataProcessing lay c opcode sf rd rn op2) =
      decodeDataProcessing cfg c (encodeDataProcessing lay c opcode sf rd rn op2) := by
  rw [decodeWord_eq_decodeClass (cond_encodeDataProcessing ..), decodeClass_dataProcessing]
  · simp [fieldOf, encodeDataProcessing]
  · cases op2 <;> simp [bitOf_eq_fieldOf, fieldOf, encodeDataProcessing, operand2Bits]

/-- A mask made of the format's fields leaves an encoded word's other fields as they are. -/
theorem encodeDataProcessing_and (rdKept rnKept : BitVec 4) :
    encodeDataProcessing lay c opcode sf rd rn op2 &&&
        (BitVec.allOnes 12 ++ rdRnBits lay rdKept rnKept ++ BitVec.allOnes 12) =
      encodeDataProcessing lay c opcode sf (rd &&& rdKept) (rn &&& rnKept) op2 := by
  have hreg : rdRnBits lay rd rn &&& rdRnBits lay rdKept rnKept = rdRnBits lay (rd &&& rdKept) (rn &&& rnKept) := by
    cases lay <;> exact append_and_append rfl rfl
  exact append_and_append (append_and_append BitVec.and_allOnes hreg) BitVec.and_allOnes

theorem encodeDataProcessing_without_rd :
    encodeDataProcessing lay c opcode sf rd rn op2 &&& ~~~(rdMask lay) =
      encodeDataProcessing lay c opcode sf 0#4 rn op2 := by
  have hmask : ~~~(rdMask lay) = BitVec.allOnes 12 ++ rdRnBits lay 0#4 (BitVec.allOnes 4) ++ BitVec.allOnes 12 := by
    cases lay <;> decide
  rw [hmask, encodeDataProcessing_and, BitVec.and_zero, BitVec.and_allOnes]

theorem encodeDataProcessing_without_rn :
    encodeDataProcessing lay c opcode sf rd rn op2 &&& ~~~(rnMask lay) =
      encodeDataProcessing lay c opcode sf rd 0#4 op2 := by
  have hmask : ~~~(rnMask lay) = BitVec.allOnes 12 ++ rdRnBits lay (BitVec.allOnes 4) 0#4 ++ BitVec.allOnes 12 := by
    cases lay <;> decide
  rw [hmask, encodeDataProcessing_and, BitVec.and_zero, BitVec.and_allOnes]

end

/-! ### The other formats (30_encoding.md R100 to R104) -/

section
variable (cfg : Config) (lay : RegLayout) (c : Cond)

theorem decodeWord_encodeSwi (imm24 : BitVec 24) : decodeWord cfg (encodeSwi c imm24) = .ok (.swi c imm24) := by
  rw [decodeWord_eq_decodeClass (cond_encodeSwi ..), decodeClass_swi]
  · simp [fieldOf, encodeSwi]
  · simp [fieldOf, encodeSwi]

theorem decodeWord_encodeBranch (link : Bool) (imm24 : BitVec 24) :
    decodeWord cfg (encodeBranch c link imm24) = .ok (if link then .bl c imm24 else .b c imm24) := by
  rw [decodeWord_eq_decodeClass (cond_encodeBranch ..), decodeClass_branch]
  · simp [bitOf_eq_fieldOf, fieldOf, encodeBranch]
  · simp [fieldOf, encodeBranch]

theorem decodeWord_encodeMultiply (acc sf : Bool) (rd rn rs rm : BitVec 4) :
    decodeWord cfg (encodeMultiply c acc sf rd rn rs rm) =
      .ok (if acc then .mla c sf (regOfBits rd) (regOfBits rn) (regOfBits rs) (regOfBits rm)
        else .mul c sf (regOfBits rd) (regOfBits rs) (regOfBits rm)) := by
  rw [decodeWord_eq_decodeClass (cond_encodeMultiply ..), decodeClass_multiply]
  · simp [decodeMultiply, bitOf_eq_fieldOf, fieldOf, encodeMultiply]
  · simp [fieldOf, encodeMultiply]
  · simp [fieldOf, encodeMultiply]

section
variable (p u b w l : Bool) (rd rn : Reg) (off : Offset)

theorem decodeRd_encodeLoadStore : decodeRd lay (encodeLoadStore lay c p u b w l rd rn off) = rd := by
  cases lay <;> simp [decodeRd, fieldOf, encodeLoadStore, rdRnBits]

theorem decodeRn_encodeLoadStore : decodeRn lay (encodeLoadStore lay c p u b w l rd rn off) = rn := by
  cases lay <;> simp [decodeRn, fieldOf, encodeLoadStore, rdRnBits]

theorem decodeOffset_encodeLoadStore : decodeOffset (encodeLoadStore lay c p u b w l rd rn off) = off := by
  cases off <;> simp [decodeOffset, bitOf_eq_fieldOf, fieldOf, encodeLoadStore, offsetBits]

theorem decodeWord_encodeLoadStore :
    decodeWord cfg (encodeLoadStore cfg.regLayout c p u b w l rd rn off) =
      .ok (if l then if b then .ldrb c p u w rd rn off else .ldr c p u w rd rn off
        else if b then .strb c p u w rd rn off else .str c p u w rd rn off) := by
  rw [decodeWord_eq_decodeClass (cond_encodeLoadStore ..), decodeClass_loadStore]
  · rw [decodeLoadStore, decodeRd_encodeLoadStore, decodeRn_encodeLoadStore, decodeOffset_encodeLoadStore]
    simp [bitOf_eq_fieldOf, fieldOf, encodeLoadStore]
  · simp [fieldOf, encodeLoadStore]
  · cases off <;> simp [bitOf_eq_fieldOf, fieldOf, encodeLoadStore, offsetBits]

end

theorem encodeMultiply_without_rn (acc sf : Bool) (rd rn rs rm : BitVec 4) :
    encodeMultiply c acc sf rd rn rs rm &&& ~~~0x0000F000#32 = encodeMultiply c acc sf rd 0#4 rs rm := by
  have hmask : ~~~0x0000F000#32 =
      BitVec.allOnes 16 ++ 0#4 ++ BitVec.allOnes 4 ++ BitVec.allOnes 4 ++ BitVec.allOnes 4 := by decide
  rw [hmask]
  exact append_and_append (append_and_append (append_and_append (append_and_append BitVec.and_allOnes BitVec.and_zero)
    BitVec.and_allOnes) BitVec.and_allOnes) BitVec.and_allOnes

end

/-- Settles O1: each instruction's word is one of its format, which decodes to its fields; RSB and RSC are well formed
where they are admitted. -/
theorem encodedInstructionDecodesToItself : Obligations.EncodedInstructionDecodesToItself := by
  refine ⟨fun cfg i hwf => ?_, by decide, by decide⟩
  cases i with
  | b | bl => exact decodeWord_encodeBranch ..
  | ldr | ldrb | str | strb => exact decodeWord_encodeLoadStore ..
  | mul | mla => exact decodeWord_encodeMultiply ..
  | swi => exact decodeWord_encodeSwi ..
  | rsb | rsc =>
    have hadmit : cfg.admitRsbRsc = true := hwf
    simp [encode, decodeDataProcessing, canonicalInstr, hadmit]
  | _ => simp [encode, decodeDataProcessing, canonicalInstr]

/-- Settles O3: MOV and MVN drop the decoded Rn, the comparisons the decoded Rd, and MUL bits 15:12. -/
theorem shouldBeZeroFieldsAreIgnored : Obligations.ShouldBeZeroFieldsAreIgnored := by
  intro cfg c z
  refine ⟨?_, ?_, ?_, ?_, ?_, ?_, fun sf rd rs rm => decodeWord_encodeMultiply cfg c false sf _ z _ _⟩ <;>
    simp [decodeDataProcessing]

/-! ### A word that decodes is an encoded word (30_encoding.md R98 to R104) -/

section
variable {w : Word} {c : Cond} {lay : RegLayout}

/-- A known bit is a known one-bit field. -/
theorem fieldOf_one_of_bitOf {i : Nat} {b : Bool} (h : bitOf w i = b) : fieldOf w i 1 = flagBit b := by
  rw [← h, flagBit_bitOf]

theorem rdRnBits_of_decoded (lay : RegLayout) (w : Word) :
    rdRnBits lay (regBits (decodeRd lay w)) (regBits (decodeRn lay w)) = fieldOf w 12 8 := by
  cases lay <;> simp [rdRnBits, decodeRd, decodeRn]

/-- Reading operand-2 loses nothing of bits 25 and 11:0: bit 4 tells the register forms apart, and bit 7 is 0 in the
one that does not read it (R94). -/
theorem operand2Bits_decodeOperand2 (h : ¬(bitOf w 25 = false ∧ bitOf w 7 = true ∧ bitOf w 4 = true)) :
    operand2Bits (decodeOperand2 w) = (fieldOf w 25 1, fieldOf w 0 12) := by
  cases h25 : bitOf w 25 with
  | true => simp [operand2Bits, decodeOperand2, h25, fieldOf_one_of_bitOf h25, flagBit]
  | false =>
    have hsplit : fieldOf w 0 12 =
        fieldOf w 8 4 ++ fieldOf w 7 1 ++ fieldOf w 5 2 ++ fieldOf w 4 1 ++ fieldOf w 0 4 := by simp
    rw [hsplit]
    cases h4 : bitOf w 4 with
    | true =>
      have h7 : bitOf w 7 = false := by simpa [h25, h4] using h
      simp [operand2Bits, decodeOperand2, h25, h4, fieldOf_one_of_bitOf h25, fieldOf_one_of_bitOf h7,
        fieldOf_one_of_bitOf h4, flagBit]
    | false =>
      simp [operand2Bits, decodeOperand2, h25, h4, fieldOf_one_of_bitOf h25, fieldOf_one_of_bitOf h4, flagBit]

/-- Reading the offset loses nothing of bits 25 and 11:0: bit 4 is 0 in the register form (R102). -/
theorem offsetBits_decodeOffset (h : ¬(bitOf w 25 = true ∧ bitOf w 4 = true)) :
    offsetBits (decodeOffset w) = (fieldOf w 25 1, fieldOf w 0 12) := by
  cases h25 : bitOf w 25 with
  | false => simp [offsetBits, decodeOffset, h25, fieldOf_one_of_bitOf h25, flagBit]
  | true =>
    have h4 : bitOf w 4 = false := by simpa [h25] using h
    have hsplit : fieldOf w 0 12 = fieldOf w 7 5 ++ fieldOf w 5 2 ++ fieldOf w 4 1 ++ fieldOf w 0 4 := by simp
    rw [hsplit]
    simp [offsetBits, decodeOffset, h25, fieldOf_one_of_bitOf h25, fieldOf_one_of_bitOf h4, flagBit]

variable (hc : condBits c = fieldOf w 28 4)
include hc

theorem encodeDataProcessing_of_decoded (h : fieldOf w 26 2 = 0b00#2)
    (h4 : ¬(bitOf w 25 = false ∧ bitOf w 7 = true ∧ bitOf w 4 = true)) :
    encodeDataProcessing lay c (fieldOf w 21 4) (bitOf w 20) (regBits (decodeRd lay w)) (regBits (decodeRn lay w))
      (decodeOperand2 w) = w := by
  simp [encodeDataProcessing, hc, ← h, rdRnBits_of_decoded, operand2Bits_decodeOperand2 h4]

theorem encodeLoadStore_of_decoded (h : fieldOf w 26 2 = 0b01#2) (h4 : ¬(bitOf w 25 = true ∧ bitOf w 4 = true)) :
    encodeLoadStore lay c (bitOf w 24) (bitOf w 23) (bitOf w 22) (bitOf w 21) (bitOf w 20) (decodeRd lay w)
      (decodeRn lay w) (decodeOffset w) = w := by
  simp [encodeLoadStore, hc, ← h, rdRnBits_of_decoded, offsetBits_decodeOffset h4]

theorem encodeMultiply_of_decoded (h : fieldOf w 22 6 = 0b000000#6) (h4 : fieldOf w 4 4 = 0b1001#4) :
    encodeMultiply c (bitOf w 21) (bitOf w 20) (fieldOf w 16 4) (fieldOf w 12 4) (fieldOf w 8 4) (fieldOf w 0 4) =
      w := by
  simp [encodeMultiply, hc, ← h, ← h4]

theorem encodeBranch_of_decoded (h : fieldOf w 25 3 = 0b101#3) : encodeBranch c (bitOf w 24) (fieldOf w 0 24) = w := by
  simp [encodeBranch, hc, ← h]

theorem encodeSwi_of_decoded (h : fieldOf w 24 4 = 0b1111#4) : encodeSwi c (fieldOf w 0 24) = w := by
  simp [encodeSwi, hc, ← h]

end

/-- The words of the five formats of R99 to R104. -/
inductive HasFormat (lay : RegLayout) (c : Cond) : Word → Prop
  | dataProcessing (opcode : BitVec 4) (sf : Bool) (rd rn : BitVec 4) (op2 : Operand2) :
      HasFormat lay c (encodeDataProcessing lay c opcode sf rd rn op2)
  | loadStore (p u b w l : Bool) (rd rn : Reg) (off : Offset) :
      HasFormat lay c (encodeLoadStore lay c p u b w l rd rn off)
  | multiply (acc sf : Bool) (rd rn rs rm : BitVec 4) : HasFormat lay c (encodeMultiply c acc sf rd rn rs rm)
  | branch (link : Bool) (imm24 : BitVec 24) : HasFormat lay c (encodeBranch c link imm24)
  | swi (imm24 : BitVec 24) : HasFormat lay c (encodeSwi c imm24)

/-- Every word the decoder admits is in one of the five formats: bits 27:26, then 25 and 24, tell the class (R97). -/
theorem hasFormat_of_decodeClass_ok {cfg : Config} {c : Cond} {w : Word} {i : Instr}
    (hc : condBits c = fieldOf w 28 4) (h : decodeClass cfg c w = .ok i) : HasFormat cfg.regLayout c w := by
  obtain h26 | h26 | h26 | h26 := bitVec_two_cases (fieldOf w 26 2)
  · by_cases h4 : bitOf w 25 = false ∧ bitOf w 7 = true ∧ bitOf w 4 = true
    · by_cases hm : fieldOf w 22 6 = 0b000000#6 ∧ fieldOf w 4 4 = 0b1001#4
      · exact encodeMultiply_of_decoded hc hm.1 hm.2 ▸ .multiply ..
      · have h25 : fieldOf w 25 3 = 0b000#3 := by simp_all [fieldOf_succ_iff]
        rw [decodeClass_reservedBit7Bit4 h25 h4.2.1 h4.2.2 hm] at h
        cases h
    · exact encodeDataProcessing_of_decoded hc h26 h4 ▸ .dataProcessing ..
  · by_cases h4 : bitOf w 25 = true ∧ bitOf w 4 = true
    · have h25 : fieldOf w 25 3 = 0b011#3 := by simp_all [fieldOf_succ_iff]
      rw [decodeClass_undefinedSpace h25 h4.2] at h
      cases h
    · exact encodeLoadStore_of_decoded hc h26 h4 ▸ .loadStore ..
  · cases hb : bitOf w 25 with
    | true =>
      have h25 : fieldOf w 25 3 = 0b101#3 := by simp_all [fieldOf_succ_iff]
      exact encodeBranch_of_decoded hc h25 ▸ .branch ..
    | false =>
      have h25 : fieldOf w 25 3 = 0b100#3 := by simp_all [fieldOf_succ_iff]
      rw [decodeClass_blockTransfer h25] at h
      cases h
  · by_cases h24 : fieldOf w 24 4 = 0b1111#4
    · exact encodeSwi_of_decoded hc h24 ▸ .swi ..
    · have hcp : fieldOf w 24 4 = 0b1110#4 ∨ fieldOf w 25 3 = 0b110#3 := by
        cases hb : bitOf w 25 <;> simp_all [fieldOf_succ_iff]
      rw [decodeClass_coprocessor hcp] at h
      cases h

/-- An instruction read from the word `w` is well formed, is its own core form, and has `w` as its word, the
should-be-zero bits read as 0. -/
def EncodesBack (cfg : Config) (w : Word) (i : Instr) : Prop :=
  i.wf cfg = true ∧ canonicalInstr i = i ∧ encode cfg i = w &&& ~~~(ignoredBits cfg.regLayout i)

/-- Most words have no should-be-zero bits (R112). -/
theorem encodesBack_encode {cfg : Config} {i : Instr} (hwf : i.wf cfg = true) (hcore : canonicalInstr i = i)
    (h0 : ignoredBits cfg.regLayout i = 0#32) : EncodesBack cfg (encode cfg i) i :=
  ⟨hwf, hcore, by rw [h0, BitVec.not_zero, BitVec.and_allOnes]⟩

theorem ite_ok_error_eq_ok_iff {p : Prop} [Decidable p] {i j : Instr} {r : DecodeReason} :
    (if p then .ok i else .error r) = (.ok j : Except DecodeReason Instr) ↔ p ∧ i = j := by
  split <;> simp [*]

theorem eq_ofNat_of_toNat_eq {b : BitVec 4} {k : Nat} (h : b.toNat = k) : b = BitVec.ofNat 4 k := by
  rw [← h, BitVec.ofNat_toNat, BitVec.setWidth_eq]

/-- Opcode by opcode: RSB and RSC where admitted, the comparisons with S = 1 and any Rd, MOV and MVN with any Rn. -/
theorem encodesBack_of_decodeDataProcessing {cfg : Config} {c : Cond} {opcode : BitVec 4} {sf : Bool} {rd rn : BitVec 4}
    {op2 : Operand2} {i : Instr}
    (h : decodeDataProcessing cfg c (encodeDataProcessing cfg.regLayout c opcode sf rd rn op2) = .ok i) :
    EncodesBack cfg (encodeDataProcessing cfg.regLayout c opcode sf rd rn op2) i := by
  simp only [decodeDataProcessing, opcode_encodeDataProcessing, sBit_encodeDataProcessing,
    decodeRd_encodeDataProcessing, decodeRn_encodeDataProcessing, decodeOperand2_encodeDataProcessing] at h
  split at h
  case h_4 hop | h_8 hop =>
    obtain ⟨hadmit, rfl⟩ := ite_ok_error_eq_ok_iff.mp h
    rw [eq_ofNat_of_toNat_eq hop]
    exact encodesBack_encode hadmit rfl rfl
  case h_9 hop | h_10 hop | h_11 hop | h_12 hop =>
    obtain ⟨rfl, rfl⟩ := ite_ok_error_eq_ok_iff.mp h
    rw [eq_ofNat_of_toNat_eq hop]
    exact ⟨rfl, rfl, (encodeDataProcessing_without_rd ..).symm⟩
  case h_14 hop =>
    obtain rfl := Except.ok.inj h
    rw [eq_ofNat_of_toNat_eq hop]
    exact ⟨rfl, rfl, (encodeDataProcessing_without_rn ..).symm⟩
  case h_16 =>
    have hlt : opcode.toNat < 16 := opcode.isLt
    have hop : opcode.toNat = 15 := by grind
    obtain rfl := Except.ok.inj h
    rw [eq_ofNat_of_toNat_eq hop]
    exact ⟨rfl, rfl, (encodeDataProcessing_without_rn ..).symm⟩
  all_goals
    next hop =>
      obtain rfl := Except.ok.inj h
      rw [eq_ofNat_of_toNat_eq hop]
      exact encodesBack_encode rfl rfl rfl

/-- Settles O2: a word that decodes is in a format, so what its format decodes to gives it back. -/
theorem decodedWordEncodesBack : Obligations.DecodedWordEncodesBack := by
  intro cfg w i h
  obtain ⟨c, hc, hclass⟩ := decodeClass_of_decodeWord_ok h
  change EncodesBack cfg w i
  cases hasFormat_of_decodeClass_ok (condBits_of_condOfBits _ _ hc) hclass with
  | dataProcessing opcode sf rd rn op2 =>
    exact encodesBack_of_decodeDataProcessing (decodeWord_encodeDataProcessing .. ▸ h)
  | loadStore p u b w l rd rn off =>
    obtain rfl := Except.ok.inj ((decodeWord_encodeLoadStore ..).symm.trans h)
    cases l <;> cases b <;> exact encodesBack_encode rfl rfl rfl
  | multiply acc sf rd rn rs rm =>
    obtain rfl := Except.ok.inj ((decodeWord_encodeMultiply ..).symm.trans h)
    cases acc with
    | true => exact encodesBack_encode rfl rfl rfl
    | false => exact ⟨rfl, rfl, (encodeMultiply_without_rn ..).symm⟩
  | branch link imm24 =>
    obtain rfl := Except.ok.inj ((decodeWord_encodeBranch ..).symm.trans h)
    cases link <;> exact encodesBack_encode rfl rfl rfl
  | swi imm24 =>
    obtain rfl := Except.ok.inj ((decodeWord_encodeSwi ..).symm.trans h)
    exact encodesBack_encode rfl rfl rfl

/-! ### The step of a fetched word (40_execution_cycle.md R116, R141) -/

section
variable {s : State} {w : Word} {c : Cond}

theorem step_of_fetch (hf : fetch s.beginStep = .ok w) : step s = executeOne s.beginStep w := by
  rw [step, stepOnce, hf]

theorem step_of_decodeClass_error {r : DecodeReason} (hf : fetch s.beginStep = .ok w)
    (hc : condOfBits (fieldOf w 28 4) = some c) (hp : conditionPassed c s.cpsr = true)
    (h : decodeClass s.cfg c w = .error r) : step s = .fault (.decodeFault r (some w) s.pc) := by
  simp [step_of_fetch hf, executeOne, hc, hp, h]

theorem step_of_decodeClass_ok {i : Instr} (hf : fetch s.beginStep = .ok w)
    (hc : condOfBits (fieldOf w 28 4) = some c) (hp : conditionPassed c s.cpsr = true)
    (h : decodeClass s.cfg c w = .ok i) : step s = nameWord w (exec i s.beginStep) := by
  simp [step_of_fetch hf, executeOne, hc, hp, h]

end

/-- Settles O5: the class of each word, and the fault of the step it becomes. -/
theorem unadmittedWordsFault : Obligations.UnadmittedWordsFault := by
  intro s w c hf hc hp
  have hstep {r} := step_of_decodeClass_error (r := r) hf hc hp
  exact ⟨fun h => hstep (decodeClass_coprocessor h), fun h => hstep (decodeClass_blockTransfer h),
    fun h h4 => hstep (decodeClass_undefinedSpace h h4),
    fun h h7 h4 hm => hstep (decodeClass_reservedBit7Bit4 h h7 h4 hm),
    fun h h23 hs h4 => hstep ((decodeClass_dataProcessing h h4).trans (decodeDataProcessing_compareWithoutS h23 hs))⟩

/-- Settles O6: the decoder's answer for the two opcodes, and the step it becomes. -/
theorem rsbAndRscAreAdmittedByParameter : Obligations.RsbAndRscAreAdmittedByParameter := by
  refine ⟨rfl, fun s w c hf hc hp h26 h4 => ?_⟩
  have hclass := decodeClass_dataProcessing (cfg := s.cfg) (c := c) h26 h4
  refine ⟨fun ha hop => step_of_decodeClass_error hf hc hp ?_, fun ha hop => step_of_decodeClass_ok hf hc hp ?_,
    fun ha hop => step_of_decodeClass_ok hf hc hp ?_⟩
  · obtain hop | hop := hop
    · simp [hclass, decodeDataProcessing_rsb hop, ha]
    · simp [hclass, decodeDataProcessing_rsc hop, ha]
  · simp [hclass, decodeDataProcessing_rsb hop, ha]
  · simp [hclass, decodeDataProcessing_rsc hop, ha]

/-- Settles O7: 1111 names no condition, which is the first test of R116. -/
theorem conditionNvFaults : Obligations.ConditionNvFaults := by
  intro s w hf hnv
  have hc : condOfBits (fieldOf w 28 4) = none := by rw [hnv]; rfl
  rw [step_of_fetch hf, executeOne, hc, beginStep_pc]

/-- Settles O12: the code of each condition by the table, its test on the flags. -/
theorem conditionTable : Obligations.ConditionTable := by
  intro p
  refine ⟨⟨rfl, ?_⟩, ⟨rfl, ?_⟩, ⟨rfl, ?_⟩, ⟨rfl, ?_⟩, ⟨rfl, ?_⟩, ⟨rfl, ?_⟩, ⟨rfl, ?_⟩, ⟨rfl, ?_⟩, ⟨rfl, ?_⟩,
    ⟨rfl, ?_⟩, ⟨rfl, ?_⟩, ⟨rfl, ?_⟩, ⟨rfl, ?_⟩, ⟨rfl, ?_⟩, ⟨rfl, rfl⟩, rfl⟩ <;> simp [conditionPassed]

/-! ### The shift mnemonics (43_shift_aliases.md) -/

/-- A shift mnemonic runs the body of MOV on the operand-2 it stands for (R118). -/
theorem execMov_eq_moveShifted (c : Cond) (sf : Bool) (rd : Reg) (op2 : Operand2) (s : State) :
    execMov c sf rd op2 s = whenPassed c s (moveShifted s sf rd op2) := rfl

/-- Settles O36: the core form of a shift mnemonic is a MOV, that of any other instruction itself. -/
theorem shiftMnemonicsExecuteAsMov : Obligations.ShiftMnemonicsExecuteAsMov := by
  intro i s
  cases i with
  | lsl | lsr | asr | ror | rrx => exact execMov_eq_moveShifted ..
  | _ => rfl

end Sys2Proof.Proofs

/-! The execution cycle: what a step can do, and the statements of 40_execution_cycle.md. -/

namespace Sys2Proof.Proofs

open Sys2Proof Sys2Proof.Machine Sys2Proof.Laws

/-! ### Every instruction is a gated handler (40_execution_cycle.md R142, R143, R150, R151) -/

/-- The dispatch table holds nothing but handlers gated by the condition of their instruction. -/
theorem exec_eq_whenPassed (i : Instr) (s : State) : ∃ handler, exec i s = whenPassed i.cond s handler := by
  cases i <;> exact ⟨_, rfl⟩

theorem exec_skip {i : Instr} {s : State} (hc : conditionPassed i.cond s.cpsr = false) :
    exec i s = .next s.advance := by
  obtain ⟨handler, he⟩ := exec_eq_whenPassed i s
  rw [he, whenPassed_skip hc]

/-- An instruction answers a next state, or the fault of a raise at its own PC (R151, R153). -/
theorem exec_answers (i : Instr) (s : State) :
    (∃ t, exec i s = .next t) ∨ ∃ r : Raise, exec i s = .fault (r.toFault none s.pc) := by
  obtain ⟨handler, he⟩ := exec_eq_whenPassed i s
  rw [he]
  cases hc : conditionPassed i.cond s.cpsr with
  | false => exact .inl ⟨_, whenPassed_skip hc⟩
  | true =>
    cases handler with
    | ok t => exact .inl ⟨t, whenPassed_ok hc rfl⟩
    | error r => exact .inr ⟨r, whenPassed_error hc rfl⟩

/-- Settles O11: the advance of the PC, written out. -/
theorem everyInstructionIsConditional : Obligations.EveryInstructionIsConditional :=
  fun _ _ => exec_skip

/-! ### The parts of a fault (40_execution_cycle.md R151) -/

@[simp] theorem pcOf_toFault (r : Raise) (word : Option Word) (pc : Word) : (r.toFault word pc).pcOf = pc := by
  cases r <;> rfl

@[simp] theorem wordOf_toFault (r : Raise) (word : Option Word) (pc : Word) : (r.toFault word pc).wordOf = word := by
  cases r <;> rfl

/-- `ExecuteOne` fills the fetched word in. -/
theorem nameWord_toFault (w : Word) (r : Raise) (word : Option Word) (pc : Word) :
    nameWord w (.fault (r.toFault word pc)) = .fault (r.toFault (some w) pc) := by
  cases r <;> rfl

/-! ### What a step can do (40_execution_cycle.md R141) -/

theorem step_of_condNv {s : State} {w : Word} (hf : fetch s.beginStep = .ok w)
    (hc : condOfBits (fieldOf w 28 4) = none) : step s = .fault (.decodeFault .condNV (some w) s.pc) := by
  simp [step_of_fetch hf, executeOne, hc]

theorem step_of_conditionFailed {s : State} {w : Word} {c : Cond} (hf : fetch s.beginStep = .ok w)
    (hc : condOfBits (fieldOf w 28 4) = some c) (hp : conditionPassed c s.cpsr = false) :
    step s = .next s.beginStep.advance := by
  simp [step_of_fetch hf, executeOne, hc, hp]

/-- The outcomes a step from `s` can have: the fault of a fetch that raised, or what became of the fetched word, by
the checks of R116 in their order. -/
inductive StepOutcome (s : State) : Host.Outcome State Fault Refusal → Prop
  | fetchRaised {r : Raise} (hf : fetch s.beginStep = .error r) : StepOutcome s (.fault (r.toFault none s.pc))
  | condNv {w : Word} (hf : fetch s.beginStep = .ok w) (hc : condOfBits (fieldOf w 28 4) = none) :
      StepOutcome s (.fault (.decodeFault .condNV (some w) s.pc))
  | skipped {w : Word} {c : Cond} (hf : fetch s.beginStep = .ok w) (hc : condOfBits (fieldOf w 28 4) = some c)
      (hp : conditionPassed c s.cpsr = false) : StepOutcome s (.next s.beginStep.advance)
  | notDecoded {w : Word} {c : Cond} {r : DecodeReason} (hf : fetch s.beginStep = .ok w)
      (hc : condOfBits (fieldOf w 28 4) = some c) (hp : conditionPassed c s.cpsr = true)
      (hd : decodeClass s.cfg c w = .error r) : StepOutcome s (.fault (.decodeFault r (some w) s.pc))
  | completed {w : Word} {c : Cond} {i : Instr} {t : State} (hf : fetch s.beginStep = .ok w)
      (hc : condOfBits (fieldOf w 28 4) = some c) (hp : conditionPassed c s.cpsr = true)
      (hd : decodeClass s.cfg c w = .ok i) (he : exec i s.beginStep = .next t) : StepOutcome s (.next t)
  | raised {w : Word} {c : Cond} {i : Instr} {r : Raise} (hf : fetch s.beginStep = .ok w)
      (hc : condOfBits (fieldOf w 28 4) = some c) (hp : conditionPassed c s.cpsr = true)
      (hd : decodeClass s.cfg c w = .ok i) (he : exec i s.beginStep = .fault (r.toFault none s.pc)) :
      StepOutcome s (.fault (r.toFault (some w) s.pc))

theorem step_outcome (s : State) : StepOutcome s (step s) := by
  cases hf : fetch s.beginStep with
  | error r => exact step_of_fetch_error hf ▸ .fetchRaised hf
  | ok w =>
    cases hc : condOfBits (fieldOf w 28 4) with
    | none => exact step_of_condNv hf hc ▸ .condNv hf hc
    | some c =>
      cases hp : conditionPassed c s.cpsr with
      | false => exact step_of_conditionFailed hf hc hp ▸ .skipped hf hc hp
      | true =>
        cases hd : decodeClass s.cfg c w with
        | error r => exact step_of_decodeClass_error hf hc hp hd ▸ .notDecoded hf hc hp hd
        | ok i =>
          rw [step_of_decodeClass_ok hf hc hp hd]
          obtain ⟨t, he⟩ | ⟨r, he⟩ := exec_answers i s.beginStep
          · exact he ▸ .completed hf hc hp hd he
          · rw [he, nameWord_toFault]
            exact .raised hf hc hp hd he

theorem step_not_refused (s : State) (r : Refusal) : step s ≠ .refused r := by
  intro h
  cases h ▸ step_outcome s

/-- Settles O10: the step is the bare advance of the state without its outcome tag. -/
theorem failedConditionOnlyAdvancesPc : Obligations.FailedConditionOnlyAdvancesPc := by
  intro s w c hf hc hp
  exact ⟨_, step_of_conditionFailed hf hc hp, pc_advance _, fun _ h15 => x_advance_ne _ h15, rfl, rfl, rfl, rfl, rfl⟩

/-- Settles O21: an instruction answers a next state or a fault, and no outcome of a step is a refusal. -/
theorem noInstructionIsRefused : Obligations.NoInstructionIsRefused := by
  refine ⟨fun i s r h => ?_, step_not_refused⟩
  obtain ⟨t, he⟩ | ⟨r', he⟩ := exec_answers i s
  · cases he.symm.trans h
  · cases he.symm.trans h

/-- A fault of a step carries its PC, and the word where the fetch answered one. -/
theorem step_fault_parts {s : State} {f : Fault} (h : step s = .fault f) :
    f.pcOf = s.pc ∧ f.wordOf = (fetch s.beginStep).toOption := by
  cases h ▸ step_outcome s with
  | fetchRaised hf | raised hf => simp [hf, Except.toOption]
  | condNv hf | notDecoded hf => rw [hf]; exact ⟨rfl, rfl⟩

/-- Settles O22: the word is there exactly when the fetch answered one. -/
theorem faultNamesWordAndPc : Obligations.FaultNamesWordAndPc := by
  intro s f h
  obtain ⟨hpc, hw⟩ := step_fault_parts h
  exact ⟨hpc, fun w hf => by rw [hw, hf]; rfl, fun r hf => by rw [hw, hf]; rfl⟩

/-! ### The step of a word that decodes (40_execution_cycle.md R141) -/

section
variable {cfg : Config} {c : Cond} {w : Word}

theorem cond_decodeLoadStore : (decodeLoadStore cfg c w).cond = c := by
  unfold decodeLoadStore
  split <;> split <;> rfl

theorem cond_decodeMultiply : (decodeMultiply c w).cond = c := by
  unfold decodeMultiply
  split <;> rfl

theorem cond_of_decodeDataProcessing_ok {i : Instr} (h : decodeDataProcessing cfg c w = .ok i) : i.cond = c := by
  unfold decodeDataProcessing at h
  split at h
  case h_4 | h_8 | h_9 | h_10 | h_11 | h_12 =>
    obtain ⟨-, rfl⟩ := ite_ok_error_eq_ok_iff.mp h
    rfl
  all_goals cases h; rfl

/-- A decoded instruction carries the condition of its word: the classes in the order of R97, the four that decode to
no instruction refuted. -/
theorem cond_of_decodeClass_ok {i : Instr} (h : decodeClass cfg c w = .ok i) : i.cond = c := by
  unfold decodeClass at h
  split at h
  · cases h; rfl
  split at h
  · cases h
  split at h
  · split at h <;> cases h <;> rfl
  split at h
  · cases h
  split at h
  · cases h
  split at h
  · cases h; exact cond_decodeLoadStore
  split at h
  · split at h
    · cases h; exact cond_decodeMultiply
    · cases h
  exact cond_of_decodeDataProcessing_ok h

end

/-- The step of a word that decodes is its instruction's meaning, whose own gate gives the skip of R143. -/
theorem step_of_decodeWord_ok {s : State} {w : Word} {i : Instr} (hf : fetch s.beginStep = .ok w)
    (h : decodeWord s.cfg w = .ok i) : step s = nameWord w (exec i s.beginStep) := by
  obtain ⟨c, hc, hd⟩ := decodeClass_of_decodeWord_ok h
  obtain rfl := cond_of_decodeClass_ok hd
  cases hp : conditionPassed i.cond s.cpsr with
  | false => rw [step_of_conditionFailed hf hc hp, exec_skip (s := s.beginStep) hp, nameWord]
  | true => exact step_of_decodeClass_ok hf hc hp hd

/-- An instruction read from four bytes is the one their word decodes to (R90). -/
theorem decodeWord_of_decodeBytes {cfg : Config} {b0 b1 b2 b3 : Byte} {i : Instr} {rest : List Byte}
    (h : decodeBytes cfg [b0, b1, b2, b3] = .instr i rest) : decodeWord cfg (wordOfBytes b0 b1 b2 b3) = .ok i := by
  rw [decodeBytes] at h
  split at h
  · next hd => cases h; exact hd
  · cases h

/-- Settles O8: what the fetch answers under either `CODE_MEM` decodes to the instruction. -/
theorem stepRunsTheDecodedInstruction : Obligations.StepRunsTheDecodedInstruction := by
  refine ⟨fun s i hu ha hm h => ?_, fun s w i hs ha hp h => ?_⟩
  · exact step_of_decodeWord_ok (fetch_unified_admitted (s := s.beginStep) ha hu hm) (decodeWord_of_decodeBytes h)
  · exact step_of_decodeWord_ok (fetch_separate_present (s := s.beginStep) ha hs hp) h

/-! ### Runs (40_execution_cycle.md R155) -/

theorem run_of_fault {s : State} {f : Fault} (h : step s = .fault f) (n : Nat) : run (n + 1) s = .faulted f s := by
  rw [run, h]

theorem run_of_trap {s t : State} {code : Word} (h : step s = .next t) (ht : t.trap = some code) (n : Nat) :
    run (n + 1) s = .trapped code t := by
  simp [run, h, ht]

theorem run_of_next {s t : State} (h : step s = .next t) (ht : t.trap = none) (n : Nat) :
    run (n + 1) s = run n t := by
  simp [run, h, ht]

theorem run_not_refused (n : Nat) : ∀ (s t : State) (r : Refusal), run n s ≠ .refused r t := by
  induction n with
  | zero => simp [run]
  | succ n ih =>
    intro s t r
    cases h : step s with
    | fault f => simp [run_of_fault h]
    | refused r' => exact absurd h (step_not_refused s r')
    | next u =>
      cases hu : u.trap with
      | some code => simp [run_of_trap h hu]
      | none => rw [run_of_next h hu]; exact ih u t r

/-- A step starts by clearing the tag of the outcome before (R351, R401). -/
theorem step_setTrap (s : State) (tag : Option Word) : step { s with trap := tag } = step s := rfl

/-- The code of a trap, as the field and eight zeros above it (R350). -/
theorem zeroExtend_imm24 (imm24 : BitVec 24) : imm24.zeroExtend 32 = 0#8 ++ imm24 :=
  BitVec.setWidth_eq_append (by decide)

theorem step_of_swi {s : State} {w : Word} {c : Cond} {imm24 : BitVec 24} (hf : fetch s.beginStep = .ok w)
    (hd : decodeWord s.cfg w = .ok (.swi c imm24)) (hp : conditionPassed c s.cpsr = true) :
    step s = .next (s.takeTrap (imm24.zeroExtend 32)) := by
  have he : exec (.swi c imm24) s.beginStep = .next (s.takeTrap (imm24.zeroExtend 32)) :=
    whenPassed_ok (s := s.beginStep) hp rfl
  rw [step_of_decodeWord_ok hf hd, he, nameWord]

/-- Settles O24: one unfolding of the run by the outcome of its first step. -/
theorem runEndsAtTheFirstTrapOrFault : Obligations.RunEndsAtTheFirstTrapOrFault := by
  intro n s
  refine ⟨fun f h => run_of_fault h n, fun t code h ht => run_of_trap h ht n, fun t h ht => run_of_next h ht n,
    fun w c imm24 hf hd hp => ?_, fun r t => run_not_refused n s t r, step_setTrap s, fun tag t h => ?_⟩
  · rw [← zeroExtend_imm24]
    exact run_of_trap (step_of_swi hf hd hp) (takeTrap_trap ..) n
  · simp [run, step_setTrap, h]

/-! ### Flags and registers (40_execution_cycle.md R148, R157) -/

/-- Settles O19: of the ways to complete, only data processing and the multiplies can write the CPSR, and with S = 0
neither does. -/
theorem onlyFlagWritersChangeFlags : Obligations.OnlyFlagWritersChangeFlags := by
  intro i s t hf h
  obtain ⟨-, rfl⟩ | ⟨-, hd⟩ := exec_next_cases h
  · rfl
  · cases hd with
    | data hd =>
      rw [writesFlags_of_dataOperands hd] at hf
      rw [hf, withFlags_false, afterResult_cpsr]
    | multiply => rw [hf]; rfl
    | branch | branchLink | load | storeWord | storeByte | trap => rfl

/-- A data-processing instruction without an Rd advances the PC and writes at most the flags (R214). -/
theorem exec_next_of_no_rd {i : Instr} {d : DataOperands} {s t : State} (hd : dataOperands i = some d)
    (hrd : d.rd = none) (h : exec i s = .next t) : ∃ set w c v, t = withFlags s.advance set w c v := by
  rw [exec_of_dataOperands hd] at h
  obtain ⟨-, rfl⟩ | ⟨-, e⟩ := whenPassed_next h
  · exact ⟨false, 0#32, false, false, rfl⟩
  · obtain ⟨a, b, u, -, -, -, hu, rfl⟩ := dataProcessing_ok_iff.mp e
    obtain ⟨-, rfl⟩ := writeResult_eq_afterResult hu
    rw [hrd]
    exact ⟨_, _, _, _, rfl⟩

/-- Settles O55: a comparison has no Rd. -/
theorem comparisonsChangeNoRegister : Obligations.ComparisonsChangeNoRegister := by
  intro i c rn op2 s t hi h
  have hd : dataOperands i = some ⟨true, none, some rn, op2⟩ := by obtain rfl | rfl | rfl | rfl := hi <;> rfl
  obtain ⟨set, w, c, v, rfl⟩ := exec_next_of_no_rd hd rfl h
  exact ⟨fun r h15 _ => by rw [withFlags_x, x_advance_ne s h15], by simp, by simp, by simp, by simp [SameOutside]⟩

end Sys2Proof.Proofs

/-! The barrel shifter bit by bit, the raises of the data-processing body, and the statements of
41_barrel_shifter.md. -/

namespace Sys2Proof.Proofs

open Sys2Proof Sys2Proof.Machine Sys2Proof.Laws

/-! ### The shifts bit by bit (00_scope.md R9, 41_barrel_shifter.md R182 to R185) -/

/-- Below the word's width `ROR` is the library's rotation. -/
theorem rorBy_eq_rotateRight (v : Word) {k : Nat} (hk : k < 32) : rorBy v k = v.rotateRight k := by
  rw [BitVec.rotateRight_def, Nat.mod_eq_of_lt hk]
  rfl

theorem getLsbD_lslBy (v : Word) (n : Nat) {k : Nat} (hk : k < 32) :
    (lslBy v n).getLsbD k = (decide (n ≤ k) && v.getLsbD (k - n)) := by
  rw [lslBy, BitVec.getLsbD_shiftLeft, decide_eq_true hk, Bool.true_and, ← decide_not]
  simp only [Nat.not_lt]

theorem getLsbD_lsrBy (v : Word) (n k : Nat) :
    (lsrBy v n).getLsbD k = (decide (k + n < 32) && v.getLsbD (k + n)) := by
  rw [lsrBy, BitVec.getLsbD_ushiftRight, Nat.add_comm n k]
  by_cases h : k + n < 32
  · simp [h]
  · simp [h, BitVec.getLsbD_of_ge v (k + n) (by omega)]

theorem getLsbD_asrBy (v : Word) (n : Nat) {k : Nat} (hk : k < 32) :
    (asrBy v n).getLsbD k = if k + n < 32 then v.getLsbD (k + n) else v.getLsbD 31 := by
  rw [asrBy, BitVec.getLsbD_sshiftRight, Nat.add_comm n k, BitVec.msb_eq_getLsbD_last]
  simp [hk]

theorem getLsbD_rorBy (v : Word) {n k : Nat} (hn : n < 32) (hk : k < 32) :
    (rorBy v n).getLsbD k = v.getLsbD ((k + n) % 32) := by
  rw [rorBy_eq_rotateRight v hn, BitVec.getLsbD_rotateRight, Nat.mod_eq_of_lt hn]
  by_cases h : k < 32 - n
  · have hm : (k + n) % 32 = n + k := by omega
    simp [h, hm]
  · have hm : (k + n) % 32 = k - (32 - n) := by omega
    simp [h, hk, hm]

theorem getLsbD_signFill (v : Word) {k : Nat} (hk : k < 32) : (signFill v).getLsbD k = v.getLsbD 31 := by
  have hones : (0xFFFFFFFF#32).getLsbD k = true := by
    rw [show 0xFFFFFFFF#32 = BitVec.allOnes 32 from rfl, BitVec.getLsbD_allOnes, decide_eq_true hk]
  rw [signFill, BitVec.msb_eq_getLsbD_last]
  cases v.getLsbD 31 <;> simp [hones]

/-- RRX (R185): the carry enters at bit 31, every other bit moves down by one. -/
theorem getLsbD_rrx (c : Bool) (v : Word) {k : Nat} (hk : k < 32) :
    (BitVec.ofBool c ++ v.extractLsb' 1 31).getLsbD k = if k = 31 then c else v.getLsbD (k + 1) := by
  rw [BitVec.getLsbD_append]
  by_cases h : k = 31
  · simp [h]
  · simp [h, show k < 31 by omega, Nat.add_comm 1 k]

/-! ### The two ways to give an amount (41_barrel_shifter.md R182 to R190)

From 1 to 31 each type is its shift of R9, with the last bit shifted out as the carry. -/

section
variable (v : Word) {n : Nat} (c : Bool)

theorem shiftImm_lsl (h : n ≠ 0) : shiftImm .lsl v n c = ⟨lslBy v n, v.getLsbD (32 - n)⟩ := if_neg h

theorem shiftImm_lsr (h : n ≠ 0) : shiftImm .lsr v n c = ⟨lsrBy v n, v.getLsbD (n - 1)⟩ := if_neg h

theorem shiftImm_asr (h : n ≠ 0) : shiftImm .asr v n c = ⟨asrBy v n, v.getLsbD (n - 1)⟩ := if_neg h

theorem shiftImm_ror (h : n ≠ 0) : shiftImm .ror v n c = ⟨rorBy v n, v.getLsbD (n - 1)⟩ := if_neg h

theorem shiftReg_zero (ty : ShiftType) : shiftReg ty v 0 c = ⟨v, c⟩ := by cases ty <;> rfl

/-- From 1 to 31 it makes no difference where the amount comes from (R187 to R190). -/
theorem shiftReg_eq_shiftImm (ty : ShiftType) (h0 : n ≠ 0) (h31 : n ≤ 31) :
    shiftReg ty v n c = shiftImm ty v n c := by
  have hmod : n % 32 = n := Nat.mod_eq_of_lt (by omega)
  cases ty <;> simp [shiftReg, shiftImm, h0, h31, hmod]

theorem shiftReg_lsl_lsr_beyond (h : 33 ≤ n) :
    shiftReg .lsl v n c = ⟨0#32, false⟩ ∧ shiftReg .lsr v n c = ⟨0#32, false⟩ := by
  simp [shiftReg, show n ≠ 0 by omega, show ¬ n ≤ 31 by omega, show n ≠ 32 by omega]

theorem shiftReg_asr_beyond (h : 32 ≤ n) : shiftReg .asr v n c = ⟨signFill v, v.getLsbD 31⟩ := by
  simp [shiftReg, show n ≠ 0 by omega, show ¬ n ≤ 31 by omega, BitVec.msb_eq_getLsbD_last]

theorem shiftReg_ror_full_turns (h0 : n ≠ 0) (h : n % 32 = 0) : shiftReg .ror v n c = ⟨v, v.getLsbD 31⟩ := by
  simp [shiftReg, h0, h, BitVec.msb_eq_getLsbD_last]

theorem shiftReg_ror_mod (h : n % 32 ≠ 0) :
    shiftReg .ror v n c = ⟨rorBy v (n % 32), v.getLsbD (n % 32 - 1)⟩ := by
  simp [shiftReg, show n ≠ 0 by rintro rfl; exact h rfl, h]

end

/-- Settles O28: the encodings of amount 0 one by one, and from 1 to 31 the bits of each type's shift. -/
theorem shiftByAmountField : Obligations.ShiftByAmountField := by
  intro v amt c
  have hmsb : v.msb = v.getLsbD 31 := BitVec.msb_eq_getLsbD_last v
  refine ⟨⟨rfl, congrArg (Shifted.mk 0#32) hmsb⟩, ⟨fun k hk => getLsbD_signFill v hk, hmsb⟩,
    ⟨fun k hk => getLsbD_rrx c v hk, rfl⟩, fun h1 h31 => ?_⟩
  have h0 : amt ≠ 0 := by omega
  rw [shiftImm_lsl v c h0, shiftImm_lsr v c h0, shiftImm_asr v c h0, shiftImm_ror v c h0]
  exact ⟨fun k hk => ⟨getLsbD_lslBy v amt hk, getLsbD_lsrBy v amt k, getLsbD_asrBy v amt hk,
    getLsbD_rorBy v (by omega) hk⟩, rfl, rfl, rfl, rfl⟩

/-- Settles O29: amount 0, 1 to 31, 32 and beyond; a rotation counts modulo 32. -/
theorem shiftByRegisterAmount : Obligations.ShiftByRegisterAmount := by
  intro v n c
  refine ⟨shiftReg_zero v c, fun ty h1 h31 => shiftReg_eq_shiftImm v c ty (by omega) h31,
    ⟨rfl, congrArg (Shifted.mk 0#32) (BitVec.msb_eq_getLsbD_last v)⟩,
    fun h => shiftReg_lsl_lsr_beyond v c h, fun h => ?_,
    fun h1 h => shiftReg_ror_full_turns v c (by omega) h, fun h => ?_⟩
  · rw [shiftReg_asr_beyond v c h]
    exact ⟨fun k hk => getLsbD_signFill v hk, rfl⟩
  · rw [shiftReg_ror_mod v c h]
    refine ⟨fun k hk => ?_, rfl⟩
    rw [getLsbD_rorBy v (Nat.mod_lt n (by omega)) hk, Nat.add_mod_mod]

/-- Settles O27: twice the rotate field is below 32, so `ROR` is the library's rotation. -/
theorem immediateOperandRotates : Obligations.ImmediateOperandRotates := by
  intro rot imm8 c
  have hzero : rot.toNat = 0 ↔ rot = 0#4 := by rw [← BitVec.toNat_inj]; rfl
  refine ⟨rorBy_eq_rotateRight _ (by omega), ?_⟩
  rw [← BitVec.msb_eq_getLsbD_last]
  simp only [immOperand, hzero]

/-- Settles O31: the branches of `operand2`; the low byte of Rs is Rs modulo 256. -/
theorem operandTwoByForm : Obligations.OperandTwoByForm := by
  intro s
  refine ⟨fun _ _ => rfl, fun rm ty amt v h => by simp [operand2, h], fun rm ty amt r h => by simp [operand2, h],
    fun rm ty rs => ?_⟩
  simp [operand2, BitVec.extractLsb'_toNat]

/-! ### The raises of the data-processing body, in their order (42_data_processing.md R211, R212, R214) -/

section
variable {s : State} {sf : Bool} {rd rn : Option Reg} {op2 : Operand2} {f : Word → Word → Bool → AluOut}

/-- R191: R15 anywhere in a register-shift form. -/
theorem checkRegisterShift_pc {rm rs : Reg} (ty : ShiftType) (h : rm = 15 ∨ rs = 15 ∨ rd = some 15 ∨ rn = some 15) :
    checkRegisterShift rd rn (.shReg rm ty rs) = .error (.unsupported .pcInRegisterShift) := if_pos h

/-- Reading a register raises nothing but PcOperand (R34). -/
theorem readReg_error {r : Reg} {e : Raise} (h : readReg s r = .error e) : e = .unsupported .pcOperand := by
  unfold readReg at h
  split at h
  · cases h
  · split at h <;> cases h
    rfl

/-- Operand-2 raises nothing but PcOperand, from its Rm. -/
theorem operand2_error {e : Raise} (h : operand2 s op2 = .error e) : e = .unsupported .pcOperand := by
  cases op2 with
  | imm | shReg => cases h
  | shImm rm ty amt =>
    cases hr : readReg s rm <;> simp [operand2, hr] at h
    exact h ▸ readReg_error hr

theorem dataProcessing_of_check_error {r : Raise} (h : checkRegisterShift rd rn op2 = .error r) :
    dataProcessing s sf rd rn op2 f = .error r := by
  simp [dataProcessing, h]

/-- R15 that cannot be read, as Rn or as Rm: whichever is read first, the raise is the same. -/
theorem dataProcessing_of_read_error (hc : checkRegisterShift rd rn op2 = .ok ())
    (h : readRn s rn = .error (.unsupported .pcOperand) ∨ operand2 s op2 = .error (.unsupported .pcOperand)) :
    dataProcessing s sf rd rn op2 f = .error (.unsupported .pcOperand) := by
  cases ho : operand2 s op2 with
  | error e => simp [dataProcessing, hc, ho, operand2_error ho]
  | ok b =>
    have hn : readRn s rn = .error (.unsupported .pcOperand) := h.resolve_right (by simp [ho])
    simp [dataProcessing, hc, ho, hn]

/-- With S = 1 a write of R15 is refused whatever the result (R211). -/
theorem dataProcessing_of_pc_with_s {a : Word} {b : Shifted} (hc : checkRegisterShift (some 15) rn op2 = .ok ())
    (ho : operand2 s op2 = .ok b) (hn : readRn s rn = .ok a) :
    dataProcessing s true (some 15) rn op2 f = .error (.unsupported .pcWriteWithS) := by
  simp [dataProcessing, hc, ho, hn, writeResult, writeRd]

end

/-- Settles O43: each clause is one raise of the shared body, and the fault is that raise at the instruction's PC. -/
theorem dataProcessingFaultsInOrder : Obligations.DataProcessingFaultsInOrder := by
  intro i ⟨sf, rd, rn, op2⟩ s hd hp
  rw [exec_of_dataOperands hd]
  refine ⟨fun rm ty rs hop h => ?_, fun hc hu h => ?_, fun a b hc ho hn hrd hsf => ?_⟩
  · cases hop
    exact whenPassed_error hp (dataProcessing_of_check_error (checkRegisterShift_pc ty h))
  · have hpc : readReg s 15 = .error (.unsupported .pcOperand) := (operandReadOfEveryRegister s 15).2.2 hu
    refine whenPassed_error hp (dataProcessing_of_read_error hc ?_)
    obtain rfl | ⟨ty, amt, rfl⟩ := h
    · exact .inl hpc
    · exact .inr ((operandTwoByForm s).2.2.1 15 ty amt _ hpc)
  · cases hrd
    cases hsf
    exact whenPassed_error hp (dataProcessing_of_pc_with_s hc ho hn)

end Sys2Proof.Proofs

/-! AddWithCarry on the integers, data-processing instructions that complete or jump, and the statements of
42_data_processing.md. -/

namespace Sys2Proof.Proofs

open Sys2Proof Sys2Proof.Machine Sys2Proof.Laws

/-! ### AddWithCarry on the integers (42_data_processing.md R213) -/

/-- A word that holds an integer of 33 bits modulo 2^32 has the integer's sign, unless the integer lies out of the
word's range: then its sign is the other one. -/
theorem msb_eq_of_toInt_bmod {w : Word} {t : Int} (h : w.toInt = t.bmod (2 ^ 32)) (hlo : -2 ^ 32 ≤ t)
    (hhi : t < 2 ^ 32) : w.msb = (decide (t < 0) != outOfRange t) := by
  rw [BitVec.msb_eq_toInt, h, Int.bmod_def, Bool.eq_iff_iff]
  simp only [outOfRange, bne_iff_ne, ne_eq, decide_eq_decide, decide_eq_true_eq]
  omega

theorem toInt_add_add_ofNat (x y : Word) (k : Nat) :
    (x + y + BitVec.ofNat 32 k).toInt = (x.toInt + y.toInt + k).bmod (2 ^ 32) := by
  rw [BitVec.toInt_add, BitVec.toInt_add, BitVec.toInt_ofNat', Int.add_bmod_bmod, Int.bmod_add_bmod]

/-- The complement of a word is, signed, minus it minus 1. -/
theorem toInt_not_eq (y : Word) : (~~~y).toInt = -y.toInt - 1 := by
  rw [BitVec.toInt_not, BitVec.toInt_eq_toNat_bmod]
  simp only [Int.bmod_def]
  have := y.isLt
  omega

/-- Adding the complement with a carry-in takes NOT the carry-in more than the difference. -/
theorem add_not_add_ofNat (x y : Word) (cin : Bool) :
    x + ~~~y + BitVec.ofNat 32 cin.toNat = x - y - BitVec.ofNat 32 (1 - cin.toNat) := by
  rw [BitVec.not_eq_neg_add]
  cases cin <;> simp <;> ring

theorem addWithCarry_result (x y : Word) (cin : Bool) :
    (addWithCarry x y cin).result = x + y + BitVec.ofNat 32 cin.toNat := by
  simp [addWithCarry, BitVec.ofNat_add]

theorem addWithCarry_carry (x y : Word) (cin : Bool) :
    (addWithCarry x y cin).carry = decide (2 ^ 32 ≤ x.toNat + y.toNat + cin.toNat) := rfl

theorem addWithCarry_overflow_eq_msb (x y : Word) (cin : Bool) :
    (addWithCarry x y cin).overflow = (x.msb == y.msb && (addWithCarry x y cin).result.msb != x.msb) := rfl

/-- The sign rule of R213 is signed overflow: the sum lies out of range. -/
theorem addWithCarry_overflow (x y : Word) (cin : Bool) :
    (addWithCarry x y cin).overflow = outOfRange (x.toInt + y.toInt + cin.toNat) := by
  have hx := x.toInt_lt
  have hx' := x.le_toInt
  have hy := y.toInt_lt
  have hy' := y.le_toInt
  have hc := cin.toNat_le
  have hr : (addWithCarry x y cin).result.msb =
      (decide (x.toInt + y.toInt + cin.toNat < 0) != outOfRange (x.toInt + y.toInt + cin.toNat)) := by
    rw [addWithCarry_result]
    exact msb_eq_of_toInt_bmod (toInt_add_add_ofNat x y cin.toNat) (by omega) (by omega)
  rw [addWithCarry_overflow_eq_msb, hr]
  by_cases hs : x.msb = y.msb
  · have hsign : decide (x.toInt + y.toInt + cin.toNat < 0) = x.msb := by
      rw [BitVec.msb_eq_toInt, BitVec.msb_eq_toInt, decide_eq_decide] at hs
      rw [BitVec.msb_eq_toInt, decide_eq_decide]
      omega
    rw [hsign, hs]
    cases y.msb <;> simp
  · have hin : outOfRange (x.toInt + y.toInt + cin.toNat) = false := by
      rw [BitVec.msb_eq_toInt, BitVec.msb_eq_toInt, decide_eq_decide] at hs
      rw [outOfRange, decide_eq_false_iff_not]
      omega
    rw [hin, beq_false_of_ne hs, Bool.false_and]

/-- The three outputs of an addition with carry-in. -/
theorem addWithCarry_eq (x y : Word) (cin : Bool) :
    addWithCarry x y cin = ⟨x + y + BitVec.ofNat 32 cin.toNat, decide (2 ^ 32 ≤ x.toNat + y.toNat + cin.toNat),
      outOfRange (x.toInt + y.toInt + cin.toNat)⟩ := by
  rw [← addWithCarry_result, ← addWithCarry_carry, ← addWithCarry_overflow]

/-- The three outputs of a subtraction done by adding the complement: the carry-in is NOT the borrow taken. -/
theorem addWithCarry_not_eq (x y : Word) (cin : Bool) :
    addWithCarry x (~~~y) cin = ⟨x - y - BitVec.ofNat 32 (1 - cin.toNat),
      decide (y.toNat + (1 - cin.toNat) ≤ x.toNat), outOfRange (x.toInt - y.toInt - (1 - cin.toNat : Int))⟩ := by
  have hcarry : 2 ^ 32 ≤ x.toNat + (~~~y).toNat + cin.toNat ↔ y.toNat + (1 - cin.toNat) ≤ x.toNat := by
    rw [BitVec.toNat_not]
    have := y.isLt
    have := cin.toNat_le
    omega
  have hsum : x.toInt + (~~~y).toInt + cin.toNat = x.toInt - y.toInt - (1 - cin.toNat : Int) := by
    rw [toInt_not_eq]
    ring
  rw [addWithCarry_eq, add_not_add_ofNat, hsum, decide_eq_decide.mpr hcarry]

theorem addWithCarry_false (x y : Word) :
    addWithCarry x y false = ⟨x + y, decide (2 ^ 32 ≤ x.toNat + y.toNat), outOfRange (x.toInt + y.toInt)⟩ := by
  simp [addWithCarry_eq]

theorem addWithCarry_not_true (x y : Word) :
    addWithCarry x (~~~y) true = ⟨x - y, decide (y.toNat ≤ x.toNat), outOfRange (x.toInt - y.toInt)⟩ := by
  simp [addWithCarry_not_eq]

/-- Settles O39: the equations of addition, and of subtraction with carry-in 1. -/
theorem addWithCarryOnIntegers : Obligations.AddWithCarryOnIntegers := by
  intro x y cin
  refine ⟨BitVec.toNat_ofNat _ _, decide_eq_true_iff, ?_, ?_⟩
  · simp only [addWithCarry_overflow_eq_msb, BitVec.msb_eq_getLsbD_last, Bool.and_eq_true, beq_iff_eq, bne_iff_ne]
  · rw [addWithCarry_not_true]
    exact ⟨rfl, decide_eq_true_iff, decide_eq_true_iff⟩

/-! ### Data-processing instructions that complete (42_data_processing.md R211, R214) -/

section
variable {i : Instr} {sf : Bool} {rd : Reg} {rn : Option Reg} {op2 : Operand2} {s : State} {a : Word} {b : Shifted}
  {result : Word} {carry overflow : Bool}

/-- An instruction that writes Rd completes with what its rule computes, when its operands are read and the write is
allowed. -/
theorem exec_writes (hi : dataOperands i = some ⟨sf, some rd, rn, op2⟩)
    (h : OperandsRead i.cond s (some rd) rn op2 a b) (ho : aluRule s i a b.value b.carry = ⟨result, carry, overflow⟩)
    (hd : DestinationAllowed rd sf result) :
    exec i s = .next (withFlags (afterWrite s rd result) sf result carry overflow) := by
  have hw := dataProcessing_completes (f := aluRule s i) h (by rwa [ho])
  rwa [← exec_of_dataOperands hi, ho] at hw

/-- A comparison completes with the flags of what its rule computes, when its operands are read. -/
theorem exec_compares (hi : dataOperands i = some ⟨true, none, rn, op2⟩)
    (h : OperandsRead i.cond s none rn op2 a b) (ho : aluRule s i a b.value b.carry = ⟨result, carry, overflow⟩) :
    exec i s = .next (withFlags s.advance true result carry overflow) := by
  have hw := dataProcessing_compares (f := aluRule s i) h
  rwa [← exec_of_dataOperands hi, ho] at hw

/-- With S = 0 a write of a misaligned result to R15 is refused (R211). -/
theorem dataProcessing_of_misaligned_pc {f : Word → Word → Bool → AluOut}
    (hc : checkRegisterShift (some 15) rn op2 = .ok ()) (ho : operand2 s op2 = .ok b) (hn : readRn s rn = .ok a)
    (hw : wordAligned (f a b.value b.carry).result = false) :
    dataProcessing s false (some 15) rn op2 f = .error (.unsupported .pcWriteMisaligned) := by
  simp [dataProcessing, hc, ho, hn, writeResult, writeRd, hw]

/-- With S = 0 a write of R15 is a jump to what the instruction's rule computes (R211). -/
theorem exec_jumpsTo (hi : dataOperands i = some ⟨false, some 15, rn, op2⟩)
    (h : OperandsRead i.cond s (some 15) rn op2 a b) (ho : aluRule s i a b.value b.carry = ⟨result, carry, overflow⟩) :
    JumpsTo s i result := by
  refine ⟨fun hw => exec_writes hi h ho fun _ => ⟨rfl, hw⟩, fun hw => ?_⟩
  obtain ⟨hc, hs, h2, hn⟩ := h
  rw [exec_of_dataOperands hi]
  exact whenPassed_error hc (dataProcessing_of_misaligned_pc hs h2 hn (by rwa [ho]))

/-- An instruction without an Rn reads its operands where one with an Rn does. -/
theorem operandsRead_without_rn {c : Cond} {rd rn : Option Reg} (h : OperandsRead c s rd rn op2 a b) :
    OperandsRead c s rd none op2 0#32 b := by
  obtain ⟨hc, hs, h2, -⟩ := h
  refine ⟨hc, ?_, h2, rfl⟩
  cases op2 with
  | imm | shImm => rfl
  | shReg rm ty rs =>
    simp only [checkRegisterShift, ite_eq_right_iff, reduceCtorEq, imp_false, not_or] at hs ⊢
    obtain ⟨hm, hs, hd, -⟩ := hs
    exact ⟨hm, hs, hd, nofun⟩

end

/-- Settles O32: each is its operation with the shifter's carry and the current V. -/
theorem logicalInstructionsComplete : Obligations.LogicalInstructionsComplete := by
  intro c sf rd rn op2 s a b h
  exact ⟨exec_writes rfl h rfl, exec_writes rfl h rfl, exec_writes rfl h rfl, exec_writes rfl h rfl⟩

/-- Settles O33: each is operand-2 or its complement with the shifter's carry and the current V. -/
theorem movesComplete : Obligations.MovesComplete := by
  intro c sf rd op2 s b h
  exact ⟨exec_writes rfl h rfl, exec_writes rfl h rfl⟩

/-- Settles O37: addition with carry-in 0, subtraction with carry-in 1. -/
theorem addSubRsbComplete : Obligations.AddSubRsbComplete := by
  intro c sf rd rn op2 s a b h
  exact ⟨exec_writes rfl h (addWithCarry_false a b.value), exec_writes rfl h (addWithCarry_not_true a b.value),
    exec_writes rfl h (addWithCarry_not_true b.value a)⟩

/-- The carry-in as the number the statements name. -/
theorem eq_toNat_of_eq_ite {k : Nat} {c : Bool} (h : k = if c = true then 1 else 0) : k = c.toNat := by
  cases c <;> exact h

/-- Settles O38: addition and subtraction with the current C as carry-in. -/
theorem carryArithmeticCompletes : Obligations.CarryArithmeticCompletes := by
  intro c sf rd rn op2 s a b k h hk
  obtain rfl := eq_toNat_of_eq_ite hk
  exact ⟨exec_writes rfl h (addWithCarry_eq a b.value _), exec_writes rfl h (addWithCarry_not_eq a b.value _),
    exec_writes rfl h (addWithCarry_not_eq b.value a _)⟩

/-- Settles O40: AND and EOR with the shifter's carry and the current V, and no Rd to write. -/
theorem testsComplete : Obligations.TestsComplete := by
  intro c rn op2 s a b h
  exact ⟨exec_compares rfl h rfl, exec_compares rfl h rfl⟩

/-- Settles O41: subtraction with carry-in 1, addition with carry-in 0, and no Rd to write. -/
theorem comparesComplete : Obligations.ComparesComplete := by
  intro c rn op2 s a b h
  exact ⟨exec_compares rfl h (addWithCarry_not_true a b.value), exec_compares rfl h (addWithCarry_false a b.value)⟩

/-- N and V of a difference are equal exactly when the difference is not negative. -/
theorem msb_sub_eq_outOfRange_iff (x y : Word) :
    (x - y).msb = outOfRange (x.toInt - y.toInt) ↔ y.toInt ≤ x.toInt := by
  have hx := x.toInt_lt
  have hx' := x.le_toInt
  have hy := y.toInt_lt
  have hy' := y.le_toInt
  rw [msb_eq_of_toInt_bmod BitVec.toInt_sub (by omega) (by omega)]
  cases outOfRange (x.toInt - y.toInt) <;> simp

/-- Settles O42: Z says the operands are equal, C compares them unsigned, N = V signed. -/
theorem conditionsAfterCmpCompare : Obligations.ConditionsAfterCmpCompare := by
  intro c rn op2 s t a b h ht
  obtain rfl : withFlags _ _ _ _ _ = t := Host.Outcome.next.inj ((comparesComplete c rn op2 s a b h).1.symm.trans ht)
  have hn := msb_sub_eq_outOfRange_iff a b.value
  rw [BitVec.msb_eq_getLsbD_last] at hn
  have hz : a - b.value = 0#32 ↔ a = b.value := sub_eq_zero
  have hunsigned : b.value.toNat ≤ a.toNat ∧ a ≠ b.value ↔ b.value.toNat < a.toNat := by
    rw [ne_eq, ← BitVec.toNat_inj]
    omega
  have hsigned : a ≠ b.value ∧ b.value.toInt ≤ a.toInt ↔ b.value.toInt < a.toInt := by
    rw [ne_eq, ← BitVec.toInt_inj]
    omega
  simp only [conditionPassed, withFlags, if_true, Bool.and_eq_true, Bool.not_eq_true', beq_iff_eq, decide_eq_true_eq,
    decide_eq_false_iff_not, hz, hn, ← hunsigned, ← hsigned, ne_eq, and_self]

/-- Settles O44: the jump of the shared body, for each of the twelve rules. -/
theorem dataProcessingWriteOfPcJumps : Obligations.DataProcessingWriteOfPcJumps := by
  intro c rn op2 s a b k h hk
  obtain rfl := eq_toNat_of_eq_ite hk
  have h' := operandsRead_without_rn h
  exact ⟨exec_jumpsTo rfl h rfl, exec_jumpsTo rfl h rfl,
    exec_jumpsTo rfl h (addWithCarry_not_true a b.value), exec_jumpsTo rfl h (addWithCarry_not_true b.value a),
    exec_jumpsTo rfl h (addWithCarry_false a b.value), exec_jumpsTo rfl h (addWithCarry_eq a b.value _),
    exec_jumpsTo rfl h (addWithCarry_not_eq a b.value _), exec_jumpsTo rfl h (addWithCarry_not_eq b.value a _),
    exec_jumpsTo rfl h rfl, exec_jumpsTo rfl h rfl, exec_jumpsTo rfl h' rfl, exec_jumpsTo rfl h' rfl⟩

/-- Settles O4: the decoder run on the ten words. -/
theorem sampleWordsDecode : Obligations.SampleWordsDecode := by
  unfold Obligations.SampleWordsDecode
  decide

end Sys2Proof.Proofs

/-! Shift mnemonics that complete, and the statements of 43_shift_aliases.md about them. -/

namespace Sys2Proof.Proofs

open Sys2Proof Sys2Proof.Machine Sys2Proof.Laws

/-! ### The operand-2 of a shift mnemonic (43_shift_aliases.md R260 to R268) -/

section
variable {c : Cond} {s : State} {rm : Reg}

/-- By immediate, the shifter runs on the amount `m` that the 5-bit field holds of the written amount `n`. -/
theorem operandsRead_shiftByImmediate {v : Word} (hc : conditionPassed c s.cpsr = true) (hr : readReg s rm = .ok v)
    (rd : Reg) (ty : ShiftType) {n m : Nat} (hm : n % 32 = m) :
    OperandsRead c s (some rd) none (shiftOperand2 ty rm (.imm n)) 0#32 (shiftImm ty v m s.cpsr.c) := by
  have hop := (operandTwoByForm s).2.1 rm ty (BitVec.ofNat 5 n) v hr
  rw [BitVec.toNat_ofNat, hm] at hop
  exact ⟨hc, rfl, hop, rfl⟩

/-- By register, without R15 (R191), the shifter runs on the low byte of Rs. -/
theorem operandsRead_shiftByRegister {rd rs : Reg} (hc : conditionPassed c s.cpsr = true) (hd : rd ≠ 15)
    (hm : rm ≠ 15) (hs : rs ≠ 15) (ty : ShiftType) :
    OperandsRead c s (some rd) none (shiftOperand2 ty rm (.reg rs)) 0#32
      (shiftReg ty (s.x rm) ((s.x rs).toNat % 256) s.cpsr.c) :=
  ⟨hc, if_neg (by simp [hm, hs, hd]), (operandTwoByForm s).2.2.2 rm ty rs, rfl⟩

end

/-- An instruction whose rule is a move by register completes with the PC advanced and the shifter's value in Rd. -/
theorem exec_shiftsByRegister {i : Instr} {sf : Bool} {rd rm rs : Reg} {ty : ShiftType} {s : State} {r : Shifted}
    (hi : dataOperands i = some ⟨sf, some rd, none, shiftOperand2 ty rm (.reg rs)⟩)
    (hf : ∀ b : Shifted, aluRule s i 0#32 b.value b.carry = ⟨b.value, b.carry, s.cpsr.v⟩)
    (hc : conditionPassed i.cond s.cpsr = true) (hd : rd ≠ 15) (hm : rm ≠ 15) (hs : rs ≠ 15)
    (hr : r = shiftReg ty (s.x rm) ((s.x rs).toNat % 256) s.cpsr.c) :
    exec i s = .next (withFlags ((s.setX 15 (s.x 15 + 4#32)).setX rd r.value) sf r.value r.carry s.cpsr.v) := by
  have h := exec_writes hi (operandsRead_shiftByRegister hc hd hm hs ty) (hf _) fun h => absurd h hd
  rwa [afterWrite, if_neg hd, ← hr] at h

/-- Settles O34: each is a move of its operand-2; the field holds amounts up to 31 unchanged and 32 as 0, and RRX is
ROR with 0 in the field. -/
theorem shiftsByImmediateComplete : Obligations.ShiftsByImmediateComplete := by
  intro c sf rd rm n s v hc hr
  have hread := operandsRead_shiftByImmediate hc hr rd
  refine ⟨fun h31 => ?_, fun _ _ => ?_, fun _ _ => ?_, fun _ h31 => ?_, ?_⟩
  · exact exec_writes rfl (hread .lsl (Nat.mod_eq_of_lt (by omega))) rfl
  · exact exec_writes rfl (hread .lsr rfl) rfl
  · exact exec_writes rfl (hread .asr rfl) rfl
  · exact exec_writes rfl (hread .ror (Nat.mod_eq_of_lt (by omega))) rfl
  · exact exec_writes rfl (hread .ror (Nat.zero_mod 32)) rfl

/-- Settles O35: each is a move of its operand-2, and Rd is not R15, so the PC advances. -/
theorem shiftsByRegisterComplete : Obligations.ShiftsByRegisterComplete := by
  intro c sf rd rm rs s hc hd hm hs
  refine ⟨fun r hr => ?_, fun r hr => ?_, fun r hr => ?_, fun r hr => ?_⟩
  all_goals exact exec_shiftsByRegister rfl (fun _ => rfl) hc hd hm hs hr

end Sys2Proof.Proofs

/-! The target of a branch on the integers, what B and BL answer, and the statements of 44_branch.md. -/

namespace Sys2Proof.Proofs

open Sys2Proof Sys2Proof.Machine Sys2Proof.Laws

/-! ### The target of a branch (44_branch.md R280, R283) -/

/-- Sign extension before scaling: the offset is four times the signed field (R283). -/
theorem signExtend_shiftLeft_two (imm24 : BitVec 24) :
    imm24.signExtend 32 <<< 2 = BitVec.ofInt 32 (4 * imm24.toInt) := by
  rw [← BitVec.mul_twoPow_eq_shiftLeft, BitVec.signExtend, BitVec.ofInt_mul, BitVec.mul_comm]
  rfl

theorem branchTarget_eq_add_ofInt (s : State) (imm24 : BitVec 24) :
    branchTarget s imm24 = s.pc + 8#32 + BitVec.ofInt 32 (4 * imm24.toInt) := by
  rw [branchTarget, signExtend_shiftLeft_two]

theorem branchTarget_eq_ofInt (s : State) (imm24 : BitVec 24) :
    branchTarget s imm24 = BitVec.ofInt 32 (s.pc.toNat + 8 + 4 * imm24.toInt) := by
  rw [branchTarget_eq_add_ofInt, BitVec.ofInt_add, BitVec.ofInt_add, BitVec.ofInt_natCast, BitVec.ofNat_toNat,
    BitVec.setWidth_eq]
  rfl

/-! ### What B and BL answer (44_branch.md R280, R281) -/

section
variable {c : Cond} {imm24 : BitVec 24} {s t : State}

theorem exec_b_passed (hc : conditionPassed c s.cpsr = true) :
    exec (.b c imm24) s = .next (s.setPc (branchTarget s imm24)) :=
  whenPassed_ok hc rfl

theorem exec_bl_passed (hc : conditionPassed c s.cpsr = true) :
    exec (.bl c imm24) s = .next ((s.setX 14 (s.pc + 4#32)).setPc (branchTarget s imm24)) :=
  whenPassed_ok hc rfl

/-- Taken or not, a branch changes nothing outside the registers. -/
theorem exec_branch_next {i : Instr} (hi : i = .b c imm24 ∨ i = .bl c imm24) (h : exec i s = .next t) :
    ∃ regs, t = { s with regs := regs } := by
  obtain ⟨-, rfl⟩ | ⟨hc, -⟩ := exec_next_cases h
  · exact ⟨_, rfl⟩
  · obtain rfl | rfl := hi
    · cases (exec_b_passed hc).symm.trans h; exact ⟨_, rfl⟩
    · cases (exec_bl_passed hc).symm.trans h; exact ⟨_, rfl⟩

/-- A taken branch, with or without link, leaves the PC at its target. -/
theorem pc_of_taken_branch {i : Instr} (hi : i = .b c imm24 ∨ i = .bl c imm24)
    (hc : conditionPassed c s.cpsr = true) (h : exec i s = .next t) : t.pc = branchTarget s imm24 := by
  obtain rfl | rfl := hi
  · cases (exec_b_passed hc).symm.trans h
    exact pc_setPc ..
  · cases (exec_bl_passed hc).symm.trans h
    exact pc_setPc ..

end

/-- Settles O45: the model's target is the one computed on the integers. -/
theorem branchesComplete : Obligations.BranchesComplete := by
  intro c imm24 s target hc ht
  rw [← branchTarget_eq_ofInt] at ht
  subst ht
  exact ⟨exec_b_passed hc, exec_bl_passed hc⟩

/-- Settles O46: the distance is four times the signed field, whose range is -2^23 .. 2^23 - 1. -/
theorem branchTargetIsAlignedAndInRange : Obligations.BranchTargetIsAlignedAndInRange := by
  intro i c imm24 s t hi hc h
  have hlo := imm24.le_toInt
  have hhi := imm24.toInt_lt
  rw [pc_of_taken_branch hi hc h]
  exact ⟨wordAligned_branchTarget imm24, 4 * imm24.toInt, by omega, by omega, by omega,
    branchTarget_eq_add_ofInt s imm24⟩

/-- Settles O56: a branch changes only registers, and of these only the PC and the written one, for BL R14. -/
theorem branchFrame : Obligations.BranchFrame := by
  intro c imm24 s t
  refine ⟨fun h => ⟨fun r h15 _ => exec_keeps_other_registers h h15 nofun, ?_⟩,
    fun h => ⟨fun r h15 hr => exec_keeps_other_registers h h15 ?_, ?_⟩⟩
  · obtain ⟨regs, rfl⟩ := exec_branch_next (.inl rfl) h
    exact ⟨rfl, fun _ => rfl, rfl, rfl, rfl⟩
  · exact fun e => hr (List.mem_singleton.mpr (Option.some.inj e).symm)
  · obtain ⟨regs, rfl⟩ := exec_branch_next (.inr rfl) h
    exact ⟨rfl, fun _ => rfl, rfl, rfl, rfl⟩

end Sys2Proof.Proofs

/-! What the loads and stores answer and raise, and the statements of 45_load_store.md. -/

namespace Sys2Proof.Proofs

open Sys2Proof Sys2Proof.Machine Sys2Proof.Laws

/-! ### The raises of the address and of the access, in their order (45_load_store.md R301 to R303) -/

section
variable {s : State} {p u w : Bool} {rd rn : Reg} {off : Offset}

theorem loadStoreAddress_indexed (h : p = false ∨ w = true) :
    loadStoreAddress s p u w rd rn off = .error (.unsupported .indexingMode) := if_pos h

theorem loadStoreAddress_pc (hp : p = true) (hw : w = false) (h : rd = 15 ∨ offsetNamesPc off = true) :
    loadStoreAddress s p u w rd rn off = .error (.unsupported .pcLoadStore) := by
  simp [loadStoreAddress, hp, hw, h]

theorem loadStoreAddress_of_base_error {r : Raise} (hp : p = true) (hw : w = false) (hrd : rd ≠ 15)
    (hoff : offsetNamesPc off = false) (h : readReg s rn = .error r) :
    loadStoreAddress s p u w rd rn off = .error r := by
  simp [loadStoreAddress, hp, hw, hrd, hoff, h]

theorem checkAccess_misaligned {cfg : Config} {a : Word} (kind : AccessKind) (h : wordAligned a = false) :
    checkAccess cfg a .word kind = .error (.memory .misaligned a) := if_pos ⟨rfl, h⟩

theorem checkAccess_rejected {cfg : Config} {a : Word} {width : Width} {kind : AccessKind}
    (ha : width = .word → wordAligned a = true) (h : memAdmit cfg a width kind = false) :
    checkAccess cfg a width kind = .error (.memory .rejected a) := by
  have haligned : ¬(width = .word ∧ wordAligned a = false) := fun ⟨hw, hf⟩ => by simp [ha hw] at hf
  rw [checkAccess, if_neg haligned, if_pos h]

theorem loadInto_of_address_error {f : Word → Except Raise Word} {r : Raise}
    (h : loadStoreAddress s p u w rd rn off = .error r) : loadInto s p u w rd rn off f = .error r := by
  simp [loadInto, h]

theorem storeFrom_of_address_error {f : Word → Except Raise State} {r : Raise}
    (h : loadStoreAddress s p u w rd rn off = .error r) : storeFrom s p u w rd rn off f = .error r := by
  simp [storeFrom, h]

theorem loadInto_of_access_error {f : Word → Except Raise Word} {a : Word} {r : Raise}
    (ha : loadStoreAddress s p u w rd rn off = .ok a) (h : f a = .error r) :
    loadInto s p u w rd rn off f = .error r := by
  simp [loadInto, ha, h]

theorem storeFrom_of_access_error {f : Word → Except Raise State} {a : Word} {r : Raise}
    (ha : loadStoreAddress s p u w rd rn off = .ok a) (h : f a = .error r) :
    storeFrom s p u w rd rn off f = .error r := by
  simp [storeFrom, ha, h]

end

/-- `i` is the load or store with these operands, and accesses memory with this width and kind. -/
def IsLoadStore (i : Instr) (c : Cond) (p u w : Bool) (rd rn : Reg) (off : Offset) (width : Width)
    (kind : AccessKind) : Prop :=
  (i = .ldr c p u w rd rn off ∧ width = .word ∧ kind = .load) ∨
    (i = .str c p u w rd rn off ∧ width = .word ∧ kind = .store) ∨
    (i = .ldrb c p u w rd rn off ∧ width = .byte ∧ kind = .load) ∨
    (i = .strb c p u w rd rn off ∧ width = .byte ∧ kind = .store)

section
variable {i : Instr} {c : Cond} {p u w : Bool} {rd rn : Reg} {off : Offset} {s : State} {width : Width}
  {kind : AccessKind} {a : Word} {r : Raise}

/-- Each of the four faults with what its address raises, before it accesses memory (R303). -/
theorem exec_of_address_error (hi : IsLoadStore i c p u w rd rn off width kind)
    (hc : conditionPassed c s.cpsr = true) (h : loadStoreAddress s p u w rd rn off = .error r) :
    exec i s = .fault (r.toFault none s.pc) := by
  obtain ⟨rfl, -⟩ | ⟨rfl, -⟩ | ⟨rfl, -⟩ | ⟨rfl, -⟩ := hi
  · exact whenPassed_error hc (loadInto_of_address_error h)
  · exact whenPassed_error hc (storeFrom_of_address_error h)
  · exact whenPassed_error hc (loadInto_of_address_error h)
  · exact whenPassed_error hc (storeFrom_of_address_error h)

/-- Each of the four faults with what the check of its own width and kind raises at its address (R65, R303). -/
theorem exec_of_access_error (hi : IsLoadStore i c p u w rd rn off width kind)
    (hc : conditionPassed c s.cpsr = true) (ha : loadStoreAddress s p u w rd rn off = .ok a)
    (h : checkAccess s.cfg a width kind = .error r) : exec i s = .fault (r.toFault none s.pc) := by
  obtain ⟨rfl, rfl, rfl⟩ | ⟨rfl, rfl, rfl⟩ | ⟨rfl, rfl, rfl⟩ | ⟨rfl, rfl, rfl⟩ := hi
  · exact whenPassed_error hc (loadInto_of_access_error ha (by simp [loadWord, h]))
  · exact whenPassed_error hc (storeFrom_of_access_error ha (by simp [storeWord, h]))
  · exact whenPassed_error hc (loadInto_of_access_error ha (by simp [loadByte, h, Except.map]))
  · exact whenPassed_error hc (storeFrom_of_access_error ha (by simp [storeByte, h]))

end

/-- Settles O50: the address raises the first three, the check of the access the last two. -/
theorem loadsAndStoresFaultInOrder : Obligations.LoadsAndStoresFaultInOrder := by
  intro i c p u w rd rn off s width kind hi hc
  refine ⟨fun h => ?_, fun hp hw h => ?_, fun hp hw hrd hoff hrn hu => ?_, fun base a haddr hwidth hal => ?_,
    fun base a haddr hal hm => ?_⟩
  · exact exec_of_address_error hi hc (loadStoreAddress_indexed h)
  · exact exec_of_address_error hi hc (loadStoreAddress_pc hp hw h)
  · have hbase : readReg s rn = .error (.unsupported .pcOperand) :=
      hrn ▸ (operandReadOfEveryRegister s 15).2.2 hu
    exact exec_of_address_error hi hc (loadStoreAddress_of_base_error hp hw hrd hoff hbase)
  · subst hwidth
    exact exec_of_access_error hi hc (loadStoreAddress_of_addressComputed haddr) (checkAccess_misaligned kind hal)
  · exact exec_of_access_error hi hc (loadStoreAddress_of_addressComputed haddr) (checkAccess_rejected hal hm)

/-! ### Loads and stores that complete (45_load_store.md R310 to R313) -/

section
variable {c : Cond} {p u w : Bool} {rd rn : Reg} {off : Offset} {s : State} {base a : Word}

theorem exec_ldr_completes (h : AddressComputed c s p u w rd rn off base a) (hal : wordAligned a = true)
    (hm : memAdmit s.cfg a .word .load = true) :
    exec (.ldr c p u w rd rn off) s = .next (s.advance.setX rd (s.wordAt a)) :=
  whenPassed_ok h.1 (loadInto_ok_iff.mpr
    ⟨a, _, loadStoreAddress_of_addressComputed h, loadWord_ok_iff.mpr ⟨hal, hm, rfl⟩, rfl⟩)

theorem exec_ldrb_completes (h : AddressComputed c s p u w rd rn off base a)
    (hm : memAdmit s.cfg a .byte .load = true) :
    exec (.ldrb c p u w rd rn off) s = .next (s.advance.setX rd ((s.byteAt a).zeroExtend 32)) :=
  whenPassed_ok h.1 (loadInto_ok_iff.mpr
    ⟨a, _, loadStoreAddress_of_addressComputed h, by rw [loadByte_ok_iff.mpr ⟨hm, rfl⟩]; rfl, rfl⟩)

theorem exec_str_completes (h : AddressComputed c s p u w rd rn off base a) (hal : wordAligned a = true)
    (hm : memAdmit s.cfg a .word .store = true) :
    exec (.str c p u w rd rn off) s = .next (s.setWord a (s.x rd)).advance :=
  whenPassed_ok h.1 (storeFrom_ok_iff.mpr
    ⟨a, _, loadStoreAddress_of_addressComputed h, storeWord_ok_iff.mpr ⟨hal, hm, rfl⟩, rfl⟩)

theorem exec_strb_completes (h : AddressComputed c s p u w rd rn off base a)
    (hm : memAdmit s.cfg a .byte .store = true) :
    exec (.strb c p u w rd rn off) s = .next (s.setByte a (byteOfWord (s.x rd) 0)).advance :=
  whenPassed_ok h.1 (storeFrom_ok_iff.mpr
    ⟨a, _, loadStoreAddress_of_addressComputed h, storeByte_ok_iff.mpr ⟨hm, rfl⟩, rfl⟩)

end

/-- Settles O48: the model's word is the four bytes joined, its extended byte is zeros joined to the byte. -/
theorem loadsComplete : Obligations.LoadsComplete := by
  intro c p u w rd rn off s base a h
  refine ⟨fun hal hm => exec_ldr_completes h hal hm, fun hm => ?_⟩
  have hz : (s.byteAt a).zeroExtend 32 = 0#24 ++ s.byteAt a := BitVec.setWidth_eq_append (by decide)
  exact hz ▸ exec_ldrb_completes h hm

/-- Settles O49: the memory is that of the word or byte write, read back at every address. -/
theorem storesComplete : Obligations.StoresComplete := by
  intro c p u w rd rn off s base a hwf h
  refine ⟨fun hal hm => ⟨_, exec_str_completes h hal hm, fun b => byteAt_setWord a (s.x rd) b hwf⟩,
    fun hm => ⟨_, exec_strb_completes h hm, fun b => ?_⟩⟩
  exact (byteAt_setByte a b (byteOfWord (s.x rd) 0) hwf).trans (if_congr eq_comm rfl rfl)

/-! ### What the loads and stores leave unchanged (45_load_store.md R304, R310 to R313) -/

section
variable {c : Cond} {p u w : Bool} {rd rn : Reg} {off : Offset} {s t : State}

/-- Skipped or not, a load changes nothing outside the registers. -/
theorem gated_loadInto_next {f : Word → Except Raise Word}
    (h : whenPassed c s (loadInto s p u w rd rn off f) = .next t) : ∃ regs, t = { s with regs := regs } := by
  obtain ⟨-, rfl⟩ | ⟨-, e⟩ := whenPassed_next h
  · exact ⟨_, rfl⟩
  · obtain ⟨a, v, -, -, rfl⟩ := loadInto_ok_iff.mp e
    exact ⟨_, rfl⟩

/-- Skipped or not, a store changes memory alone, apart from the advance. In memory it keeps the bytes that its access
keeps at the computed address. -/
theorem gated_storeFrom_next {f : Word → Except Raise State} {outside : Word → Word → Prop}
    (hf : ∀ a n, f a = .ok n →
      ∃ m, n = { s with mem := m } ∧ ∀ b, outside a b → readCell m b.toNat = s.byteAt b)
    (h : whenPassed c s (storeFrom s p u w rd rn off f) = .next t) :
    ∃ m, t = State.advance { s with mem := m } ∧ ∀ a, loadStoreAddress s p u w rd rn off = .ok a →
      ∀ b, outside a b → readCell m b.toNat = s.byteAt b := by
  obtain ⟨-, rfl⟩ | ⟨-, e⟩ := whenPassed_next h
  · exact ⟨s.mem, rfl, fun _ _ _ _ => rfl⟩
  · obtain ⟨a, n, ha, hn, rfl⟩ := storeFrom_ok_iff.mp e
    obtain ⟨m, rfl, hm⟩ := hf a n hn
    refine ⟨m, rfl, fun a' ha' => ?_⟩
    obtain rfl : a = a' := Except.ok.inj (ha.symm.trans ha')
    exact hm

theorem storeWord_frame {a v : Word} (h : storeWord s a v = .ok t) :
    ∃ m, t = { s with mem := m } ∧ ∀ b : Word, 4 ≤ (b - a).toNat → readCell m b.toNat = s.byteAt b := by
  obtain ⟨-, -, rfl⟩ := storeWord_ok_iff.mp h
  exact ⟨_, rfl, fun b hb => byteAt_setWord_ne s v hb⟩

theorem storeByte_frame {a : Word} {d : Byte} (h : storeByte s a d = .ok t) :
    ∃ m, t = { s with mem := m } ∧ ∀ b : Word, b ≠ a → readCell m b.toNat = s.byteAt b := by
  obtain ⟨-, rfl⟩ := storeByte_ok_iff.mp h
  exact ⟨_, rfl, fun b hb => byteAt_setByte_ne s d hb.symm⟩

end

/-- Settles O57: a load changes only registers, and of these only the PC and Rd. -/
theorem loadFrame : Obligations.LoadFrame := by
  intro i c p u w rd rn off s t hi h
  have hrd : writtenRegister i = some rd := by obtain rfl | rfl := hi <;> rfl
  have hregs : ∃ regs, t = { s with regs := regs } := by
    obtain rfl | rfl := hi
    · exact gated_loadInto_next h
    · exact gated_loadInto_next h
  refine ⟨fun r h15 hr => exec_keeps_other_registers h h15 fun e => ?_, ?_⟩
  · exact hr (List.mem_singleton.mpr (Option.some.inj (e.symm.trans hrd)))
  · obtain ⟨regs, rfl⟩ := hregs
    exact ⟨rfl, fun _ => rfl, rfl, rfl, rfl⟩

/-- Settles O58: a store changes only memory and the PC, and of memory only what its access writes. -/
theorem storeFrame : Obligations.StoreFrame := by
  intro c p u w rd rn off s t
  refine ⟨fun h => ?_, fun h => ?_⟩
  · obtain ⟨m, rfl, hm⟩ := gated_storeFrom_next (fun _ _ => storeWord_frame) h
    exact ⟨fun r h15 _ => x_advance_ne _ h15, pc_advance _, rfl, rfl, rfl, rfl, hm⟩
  · obtain ⟨m, rfl, hm⟩ := gated_storeFrom_next (fun _ _ => storeByte_frame) h
    exact ⟨fun r h15 _ => x_advance_ne _ h15, pc_advance _, rfl, rfl, rfl, rfl, hm⟩

/-- Settles O47: zero extension keeps the number imm12 holds; the register form is the model's definition. -/
theorem loadStoreOffsetByForm : Obligations.LoadStoreOffsetByForm := by
  intro s
  refine ⟨fun imm12 => ?_, fun _ _ _ => rfl⟩
  rw [loadStoreOffset]
  exact BitVec.toNat_setWidth_of_le (by decide)

end Sys2Proof.Proofs

/-! What MUL and MLA answer, raise and keep, and the statements of 46_multiply.md. -/

namespace Sys2Proof.Proofs

open Sys2Proof Sys2Proof.Machine Sys2Proof.Laws

/-! ### The result and the flags of a multiply (46_multiply.md R331 to R333) -/

/-- Multiplying words is multiplying their numbers modulo 2^32 (R331). -/
theorem ofNat_toNat_mul_toNat (a b : Word) : BitVec.ofNat 32 (a.toNat * b.toNat) = a * b := by
  rw [BitVec.ofNat_mul, BitVec.ofNat_toNat, BitVec.ofNat_toNat, BitVec.setWidth_eq, BitVec.setWidth_eq]

/-- The accumulator is added before the reduction modulo 2^32 or after it, with the same result (R332). -/
theorem ofNat_toNat_mul_toNat_add_toNat (a b d : Word) :
    BitVec.ofNat 32 (a.toNat * b.toNat + d.toNat) = a * b + d := by
  rw [BitVec.ofNat_add, ofNat_toNat_mul_toNat, BitVec.ofNat_toNat, BitVec.setWidth_eq]

section
variable {s : State} (rd : Reg) (w : Word)

theorem multiplyInto_flags_unchanged (h : s.cfg.mulsCv = .unchanged) :
    multiplyInto s true rd w = withFlags (s.advance.setX rd w) true w s.cpsr.c s.cpsr.v := by
  simp [multiplyInto, State.setMultiplyFlags, h, setFlags_eq]

theorem multiplyInto_flags_draw (h : s.cfg.mulsCv = .draw) :
    multiplyInto s true rd w =
      { withFlags (s.advance.setX rd w) true w (Config.freeBit s.draws) (Config.freeBit (s.draws + 1)) with
        draws := s.draws + 2 } := by
  simp [multiplyInto, State.setMultiplyFlags, h, setFlags_eq]

end

@[simp] theorem multiplyInto_low (s : State) (sf : Bool) (rd : Reg) (w : Word) :
    (multiplyInto s sf rd w).cpsr.low = s.cpsr.low := by cases sf <;> simp [multiplyInto]
@[simp] theorem multiplyInto_byteAt (s : State) (sf : Bool) (rd : Reg) (w q : Word) :
    (multiplyInto s sf rd w).byteAt q = s.byteAt q := by cases sf <;> simp [multiplyInto]

/-! ### What MUL and MLA answer (46_multiply.md R330 to R333) -/

section
variable {c : Cond} {sf : Bool} {rd rn rs rm : Reg} {s t : State}

theorem exec_mul_completes (hc : conditionPassed c s.cpsr = true) (hd : rd ≠ 15) (hs : rs ≠ 15) (hm : rm ≠ 15) :
    exec (.mul c sf rd rs rm) s =
      .next (multiplyInto s sf rd (BitVec.ofNat 32 ((s.x rm).toNat * (s.x rs).toNat))) := by
  rw [ofNat_toNat_mul_toNat]
  exact whenPassed_ok hc (if_neg (by simp [hd, hm, hs]))

theorem exec_mla_completes (hc : conditionPassed c s.cpsr = true) (hd : rd ≠ 15) (hs : rs ≠ 15) (hm : rm ≠ 15)
    (hn : rn ≠ 15) :
    exec (.mla c sf rd rn rs rm) s =
      .next (multiplyInto s sf rd (BitVec.ofNat 32 ((s.x rm).toNat * (s.x rs).toNat + (s.x rn).toNat))) := by
  rw [ofNat_toNat_mul_toNat_add_toNat]
  exact whenPassed_ok hc (if_neg (by simp [hd, hm, hs, hn]))

/-- The multiply body, run without flags and with them, is a multiply as the rules describe it. -/
theorem multipliesTo_of_exec {result : Word} {plain flagged : Instr}
    (hp : exec plain s = .next (multiplyInto s false rd result))
    (hf : exec flagged s = .next (multiplyInto s true rd result)) : MultipliesTo s rd result plain flagged := by
  refine ⟨hp, fun hu => ?_, fun hdraw => ⟨Config.freeBit s.draws, Config.freeBit (s.draws + 1), ?_⟩⟩
  · rw [hf, multiplyInto_flags_unchanged rd result hu]; rfl
  · rw [hf, multiplyInto_flags_draw rd result hdraw]; rfl

/-- A gated multiply that answers was skipped, or ran its body on an Rd that is not R15. -/
theorem gated_multiplyInto_next {namesPc : Prop} [Decidable namesPc] {r : Raise} {w : Word}
    (h15 : rd = 15 → namesPc)
    (h : whenPassed c s (if namesPc then .error r else .ok (multiplyInto s sf rd w)) = .next t) :
    t = s.advance ∨ ∃ v, rd ≠ 15 ∧ t = multiplyInto s sf rd v := by
  obtain ⟨-, ht⟩ | ⟨-, e⟩ := whenPassed_next h
  · exact .inl ht
  · split at e
    · cases e
    · next hn => cases e; exact .inr ⟨w, mt h15 hn, rfl⟩

theorem exec_multiply_next {i : Instr} (hi : i = .mul c sf rd rs rm ∨ i = .mla c sf rd rn rs rm)
    (h : exec i s = .next t) : t = s.advance ∨ ∃ v, rd ≠ 15 ∧ t = multiplyInto s sf rd v := by
  obtain rfl | rfl := hi
  · exact gated_multiplyInto_next Or.inl h
  · exact gated_multiplyInto_next Or.inl h

end

/-- Settles O51: with no R15 among the registers either multiply runs the shared body on its result. -/
theorem multipliesComplete : Obligations.MultipliesComplete := by
  intro c rd rn rs rm s hc hd hs hm
  exact ⟨multipliesTo_of_exec (exec_mul_completes hc hd hs hm) (exec_mul_completes hc hd hs hm),
    fun hn => multipliesTo_of_exec (exec_mla_completes hc hd hs hm hn) (exec_mla_completes hc hd hs hm hn)⟩

/-- Settles O59: a multiply that answers was skipped, or ran the shared body, which with S = 0 writes Rd and the PC
alone. -/
theorem multiplyFrame : Obligations.MultiplyFrame := by
  intro i c sf rd rn rs rm s t hi h
  obtain rfl | ⟨v, hd, rfl⟩ := exec_multiply_next hi h
  · exact ⟨fun r h15 _ => x_advance_ne s h15, pc_advance s, fun _ => ⟨rfl, rfl⟩, rfl, fun _ => rfl, rfl, rfl⟩
  · refine ⟨fun r h15 hr => ?_, multiplyInto_pc v hd, fun hsf => ?_, by simp, by simp, by simp, by simp⟩
    · rw [multiplyInto_x, x_setX_ne _ (List.ne_of_not_mem_cons hr).symm, x_advance_ne s h15]
    · subst hsf
      exact ⟨rfl, rfl⟩

/-- Settles O52: the check for R15 comes before any register is read, so `PC_READ` plays no part. -/
theorem multiplyOfPcFaults : Obligations.MultiplyOfPcFaults := by
  intro c sf rd rn rs rm s hc
  exact ⟨fun h => whenPassed_error hc (if_pos h), fun h => whenPassed_error hc (if_pos h)⟩

end Sys2Proof.Proofs

/-! What SWI answers and keeps: the statements of 47_swi.md. -/

namespace Sys2Proof.Proofs

open Sys2Proof Sys2Proof.Machine Sys2Proof.Laws

section
variable {c : Cond} {imm24 : BitVec 24} {s t : State}

theorem exec_swi_completes (hc : conditionPassed c s.cpsr = true) :
    exec (.swi c imm24) s = .next (s.takeTrap (0#8 ++ imm24)) := by
  rw [← zeroExtend_imm24]
  exact whenPassed_ok hc rfl

/-- An SWI that answers was skipped, or took the trap with its field as the code (R143, R350). -/
theorem exec_swi_next (h : exec (.swi c imm24) s = .next t) : t = s.advance ∨ t = s.takeTrap (0#8 ++ imm24) := by
  rw [← zeroExtend_imm24]
  obtain ⟨-, ht⟩ | ⟨-, e⟩ := whenPassed_next h
  · exact .inl ht
  · exact .inr (Except.ok.inj e).symm

end

/-- Settles O60: skipped or trapping, SWI only advances the PC; the trap's tag is in no field the frame speaks of. -/
theorem swiFrame : Obligations.SwiFrame := by
  intro c imm24 s t h
  obtain rfl | rfl := exec_swi_next h
  all_goals exact ⟨fun r h15 _ => x_advance_ne s h15, pc_advance s, rfl, fun _ => rfl, rfl, rfl⟩

/-- Settles O53: taking the trap is the advance of the PC, written out, and the tag. -/
theorem swiTraps : Obligations.SwiTraps := fun _ _ _ hc => exec_swi_completes hc

end Sys2Proof.Proofs

/-! The one exception, the software trap: the statement of 60_exceptions.md. -/

namespace Sys2Proof.Proofs

open Sys2Proof Sys2Proof.Machine Sys2Proof.Laws

/-- Settles O23: a step clears the tag before it runs the word (R351), so a tag after it is one that an instruction
set, and only an SWI that runs sets one. -/
theorem onlySwiTraps : Obligations.OnlySwiTraps := by
  intro s t code h hcode
  obtain ⟨w, c, hf, hc, ⟨-, rfl⟩ | ⟨i, -, hd, he⟩⟩ := step_next_cases h
  · rw [advance_trap, beginStep_trap] at hcode
    cases hcode
  · obtain ht | ⟨c', imm24, rfl, hp, ht⟩ := exec_trap_cases he
    · rw [ht, beginStep_trap] at hcode
      cases hcode
    · obtain rfl : imm24.zeroExtend 32 = code := Option.some.inj (ht.symm.trans hcode)
      exact ⟨w, c', imm24, hf, (decodeWord_eq_decodeClass hc).trans hd, hp, BitVec.toNat_setWidth_of_le (by decide)⟩

end Sys2Proof.Proofs
